-- ==== Sys2Proof/Word.lean ====
section
/-! DEFINITION. The bit-vector types of the barely-sha256 CORE (00_scope R7, R10): every value is unsigned, and
`+` on words wraps modulo 2^32 (R11). -/

namespace Sys2Proof

/-- WORD_BITS = 32 (R7); every word is unsigned (R10). -/
abbrev Word := BitVec 32

abbrev Byte := BitVec 8

/-- BLOCK_BITS = 512: one padded message block as `block_in` carries it (R7, R51). -/
abbrev Block := BitVec 512

/-- DIGEST_BITS = 256: the value of `digest_out` (R7, R52). -/
abbrev DigestBits := BitVec 256

/-- CMD_BITS = 2: the value of the port `cmd` (R8, R70). -/
abbrev Cmd := BitVec 2

/-- One command transaction as one number, `{block_in, cmd}`: `cmd` is bits 1..0, as opcode_table.json numbers
them, and `block_in` counts on from bit 2 (DESIGN CHOICE, log 13: the hardware has two ports, not one word). -/
abbrev Transaction := BitVec 514

end Sys2Proof
end

