-- ==== Sys2Proof/Config.lean ====
section
/-! DEFINITION. What an implementation or the host fixes (00_scope R8), and the FREE VALUES of the spec: constants
with no body, applied to the counter `draws` of State, so that a claim holds whatever they are (log 12). -/

namespace Sys2Proof

/-- The edges a COMPRESS takes beyond the one every COMPRESS takes, for the draw `d`: COMPRESS_LATENCY is
`Config.extraEdges d + 1`, any integer L >= 1, drawn anew for each COMPRESS (R8, R251, U5; log 5). -/
opaque Config.extraEdges : Nat → Nat

/-- The unspecified contents of a 32-bit register, for the draw `d` and the register's slot (R36, R241, U2, U3;
log 4, log 8). -/
opaque Config.freeWord : Nat → Nat → Word

/-- The unspecified value of the 6-bit round counter while `busy = 0` (R24, R36, U2; log 4, log 8). -/
opaque Config.freeRound : Nat → Fin 64

/-- What a host sees on `digest_out` while `hdef = false`: any value, a draw (R29, R221 code 3, D30; log 9). -/
opaque Config.freeDigest : Nat → DigestBits

/-- The reference value of COMPRESS_LATENCY: 64 round edges and 1 fold edge (R8, R252). No rule depends on it. -/
def Config.referenceLatency : Nat := 65

/-- The host parameter LEN_MODE (R8, R192). Its `default` is the first value, FULL64. -/
inductive LenMode where
  /-- The exact 64-bit bit-length; the default (D23). -/
  | full64
  /-- The bit-length modulo 2^32, the high half zero (the spec's own reading, D23, N7; log 18). -/
  | trunc32
deriving DecidableEq, Repr, Inhabited

/-- The value of LEN_MODE where the host sets none: FULL64 (R8, R192, D23). -/
def Config.defaultLenMode : LenMode := .full64

/-- The host parameter OVERRANGE_POLICY (R194, D37). -/
inductive OverrangePolicy where
  | reject
  | bestEffort
deriving DecidableEq, Repr

end Sys2Proof
end

