-- ==== Sys2Proof/Syntax.lean ====
section
/-! DEFINITION. The commands of the engine, one constructor per row of spec/opcode_table.json (30_encoding R73), and
the lines of the host command script (R78, R79). -/

namespace Sys2Proof

/-- The four commands. COMPRESS alone carries an operand, the block (R71, R72): a partial block cannot be
expressed (R54), and every 512-bit value is legal (R103). -/
inductive Instr where
  /-- `cmd = 00`, format C (R101). -/
  | nop
  /-- `cmd = 01`, format C (R102). -/
  | init
  /-- `cmd = 10`, format CB (R103, R104). -/
  | compress (blk : Block)
  /-- `cmd = 11`, format C (R105). -/
  | reserved
deriving DecidableEq, Repr

/-- The two transaction formats (R71). -/
inductive Format where
  /-- `op` alone: `block_in` is ignored. -/
  | c
  /-- `op` and `blk = block_in`. -/
  | cb
deriving DecidableEq, Repr

/-- The format of each command (R71, R73). -/
def Instr.format : Instr → Format
  | .nop => .c
  | .init => .c
  | .compress _ => .cb
  | .reserved => .c

/-- One line of the host command script (R78) or a pseudo-instruction (R79). -/
inductive HostLine where
  | nop
  | init
  /-- `COMPRESS 0x<digits>`: the hexadecimal digits as values, the first two of them `B[0]`. -/
  | compress (digits : List Nat)
  /-- `RSV` offers `cmd = 11`. -/
  | rsv
  /-- `WAIT` holds `cmd_valid = 0` until `busy = 0`. -/
  | wait
  /-- `READ -> name` samples `digest_out` into a host variable. -/
  | read (name : List Char)
  /-- `RESET` drives `rst = 1` for one rising edge. -/
  | reset
  /-- `HASH <byte string>`: INIT, one COMPRESS per block of Pad, WAIT and READ. -/
  | hash (message : List Byte)
deriving DecidableEq, Repr

end Sys2Proof
end

