-- ==== Sys2Proof/WellFormed.lean ====
section
/-! DEFINITION. What makes a command or a script line well formed. -/

namespace Sys2Proof

/-- Every command is well formed: the four codes fill the 2-bit space (R73, R75), and the type of COMPRESS's operand
already says that it is a whole 512-bit block, every value of which is legal (R54, R103). -/
def Instr.wellFormed : Instr → Bool
  | .nop => true
  | .init => true
  | .compress _ => true
  | .reserved => true

/-- A hexadecimal digit's value. -/
def isHexDigit (n : Nat) : Bool := n < 16

/-- `COMPRESS 0x<128 hex digits>` carries exactly 128 digits (R78); no other line has a form to check. -/
def HostLine.wellFormed : HostLine → Bool
  | .nop => true
  | .init => true
  | .compress digits => digits.length == 128 && digits.all isHexDigit
  | .rsv => true
  | .wait => true
  | .read _ => true
  | .reset => true
  | .hash _ => true

end Sys2Proof
end

