-- ==== Sys2Proof/Decode.lean ====
section
/-! DEFINITION. The command decoder (30_encoding R70 to R76) and, after it, the encoder. -/

namespace Sys2Proof

/-- Decode one command from the two ports sampled together (R70, R71, R73). It is total: each of the four values of
`cmd` selects exactly one row (R75), and a format C command ignores `block_in` (R71). -/
def decode (cmd : Cmd) (blockIn : Block) : Instr :=
  if cmd = 0b00#2 then .nop
  else if cmd = 0b01#2 then .init
  else if cmd = 0b10#2 then .compress blockIn
  else .reserved

/-- Why a number is no transaction. -/
inductive DecodeError where
  /-- It has a bit above the 2 bits of `cmd` and the 512 bits of `block_in`. -/
  | widerThanPorts
deriving DecidableEq, Repr

/-- The field `cmd` of a transaction given as a number: bits 1..0 (R70). -/
def wordCmd (w : Nat) : Cmd := BitVec.ofNat 2 w

/-- The field `block_in` of a transaction given as a number: the 512 bits above `cmd` (log 13). -/
def wordBlock (w : Nat) : Block := BitVec.ofNat 512 (w >>> 2)

/-- The field `cmd` of a transaction. -/
def Transaction.cmd (w : Transaction) : Cmd := wordCmd w.toNat

/-- The field `block_in` of a transaction. -/
def Transaction.blockIn (w : Transaction) : Block := wordBlock w.toNat

/-- Decode any number as a transaction `{block_in, cmd}`, rejecting by name one with a bit above the 514 that the two
ports carry. -/
def decodeWord (w : Nat) : Except DecodeError Instr :=
  if w >>> 514 = 0 then .ok (decode (wordCmd w) (wordBlock w)) else .error .widerThanPorts

/-- The instruction the decoder reads from an instruction whose low `nbits` bits are those of `w`, numbered as
spec/opcode_table.json numbers them, every bit above being 0 (log 13). -/
def decodeTableWord (nbits w : Nat) : Option Instr :=
  (decodeWord (w % 2 ^ nbits)).toOption

/-- The code a command puts on `cmd` (R73). -/
def opcode : Instr → Cmd
  | .nop => 0b00#2
  | .init => 0b01#2
  | .compress _ => 0b10#2
  | .reserved => 0b11#2

/-- What a command puts on `block_in`: COMPRESS its block; a format C command's value has no effect (R71), and the
encoder writes 0 (DESIGN CHOICE, log 13). -/
def operandBlock : Instr → Block
  | .nop => 0
  | .init => 0
  | .compress blk => blk
  | .reserved => 0

/-- The transaction of a command, `{block_in, cmd}`. -/
def encode (i : Instr) : Transaction := operandBlock i ++ opcode i

end Sys2Proof
end

