-- ==== Sys2Proof/Machine/State.lean ====
section
/-! DEFINITION. The state of the engine as plain data (10_state R20 to R37), the ways a step can stop, and the state
right after reset. -/

namespace Sys2Proof.Machine

/-- WorkingState `a..h`: eight 32-bit registers, in the order of `H[0]..H[7]` (R22). -/
structure Working where
  a : Word
  b : Word
  c : Word
  d : Word
  e : Word
  f : Word
  g : Word
  h : Word
deriving DecidableEq, Repr

/-- A COMPRESS in flight: the captured block and the edges remaining until its completion edge (R37, R103). -/
structure InFlight where
  blk : Block
  remaining : Nat
deriving DecidableEq, Repr

/-- What the host drives on the input ports at one rising edge of `clk` (R50). Inputs are 0 or 1 (D27, log 14). -/
structure PortSample where
  rst : Bool
  cmdValid : Bool
  cmd : Cmd
  blockIn : Block
deriving DecidableEq, Repr

/-- The engine's state. There is no memory (R56), no program counter (R24) and no register a command can name
(R32); the ROMs K and IV are constants of the hardware (R30, R31; Machine/Rom.lean). -/
structure State where
  /-- DigestState `H[0..7]` (R20). -/
  H : Vector Word 8
  /-- WorkingState `a..h` (R22). -/
  work : Working
  /-- MessageSchedule `W[0..63]` (R23). -/
  W : Vector Word 64
  /-- The round counter (R24): the round to run next, 64 when all have run (log 7). -/
  t : Nat
  /-- A COMPRESS is in flight (R25). -/
  busy : Bool
  /-- `digest_out` holds the result of the last INIT or COMPRESS (R27). -/
  done : Bool
  /-- A reserved command has been accepted since reset; sticky (R28). -/
  cmdErr : Bool
  /-- The spec's model-only flag: DigestState holds a defined value (R29). -/
  hdef : Bool
  /-- The captured block and the edges left (R37). -/
  inflight : Option InFlight
  /-- The model's own counter, which the free values of Config are applied to (log 12). -/
  draws : Nat
  /-- What the host drives at the coming edges, the next edge first; with none left the host is idle (log 1). -/
  inputs : List PortSample
deriving DecidableEq, Repr

/-- What stops the machine with a fault. -/
inductive Fault where
  /-- `ModelFault(UninitialisedDigest)`, code 2 of R221: raised by the acceptance of a COMPRESS while `hdef = false`
  (R103). The hardware computes on an unspecified DigestState and signals nothing; the model stops. Safe. -/
  | uninitialisedDigest
deriving DecidableEq, Repr

/-- What the model has no meaning for. -/
inductive Refusal where
  /-- Raised by an arm of `exec` whose command has no meaning yet; none has (safe). -/
  | notModelled (mnemonic : String)
  /-- Raised by an edge with `rst = 0` and `busy = 1` while nothing is in flight: R38 rules that out in every state
  after the first reset, and the model has no state before it (R243, U4; log 11). Safe. -/
  | stateBeforeReset
  /-- Raised by the host-side functions, never by the engine: a message whose length the host must not or does not
  encode (R194; log 19). Safe. -/
  | messageOutOfRange
deriving DecidableEq, Repr

/-- The state right after reset (R36, R240). `busy`, `done`, `cmd_err`, `hdef` and `inflight` are the spec's values.
`H`, `work`, `W` and `t` are unspecified there: the model names 0 (DESIGN CHOICE, unsafe, log 3). `draws` (log 12) and
`inputs` (log 1) are the model's own. -/
def State.reset : State where
  H := Vector.replicate 8 0
  work := ⟨0, 0, 0, 0, 0, 0, 0, 0⟩
  W := Vector.replicate 64 0
  t := 0
  busy := false
  done := false
  cmdErr := false
  hdef := false
  inflight := none
  draws := 0
  inputs := []

end Sys2Proof.Machine
end

