-- ==== Sys2Proof/Machine/Operands.lean ====
section
/-! DEFINITION. How words and bytes lie on the 512-bit block bus and the 256-bit digest bus: big-endian, the first byte
of the stream in the most significant lane (20_memory R51, R52, R53; 30_encoding R72). -/

namespace Sys2Proof.Machine

/-- `BE32(b0, b1, b2, b3) = {b0, b1, b2, b3}`, `b0` the most significant byte (R13). -/
def be32 (b0 b1 b2 b3 : Byte) : Word := b0 ++ b1 ++ b2 ++ b3

/-- `B[j] = block_in[511-8j : 504-8j]` (R51). -/
def blockByte (blk : Block) (j : Fin 64) : Byte := blk.extractLsb' (504 - 8 * j.val) 8

/-- The operand word `blk[511-32i : 480-32i]` (R51, R72). -/
def blockWord (blk : Block) (i : Fin 16) : Word := blk.extractLsb' (480 - 32 * i.val) 32

/-- `{H[0], ..., H[7]}`, `H[0]` in the most significant word (R52). -/
def packDigest (H : Vector Word 8) : DigestBits :=
  H[0] ++ H[1] ++ H[2] ++ H[3] ++ H[4] ++ H[5] ++ H[6] ++ H[7]

/-- Byte `k` of the digest, `digest_out[255-8k : 248-8k]` (R52). -/
def digestByte (D : DigestBits) (k : Fin 32) : Byte := D.extractLsb' (248 - 8 * k.val) 8

end Sys2Proof.Machine
end

