-- ==== Sys2Proof/Machine/Flags.lean ====
section
/-! DEFINITION. The status bits and the output ports as functions of State (10_state R25 to R29, R34; 20_memory R50,
R52), and the abnormal conditions (60_exceptions R221). The engine has no condition code (R33). -/

namespace Sys2Proof.Machine

/-- `cmd_ready = not busy`, combinationally, not stored (R26, D38). -/
def cmdReady (s : State) : Bool := !s.busy

/-- `STATUS[2:0] = {cmd_err, done, busy}`: the spec's packing for a model's convenience (R34). -/
def statusWord (s : State) : BitVec 3 :=
  BitVec.ofBool s.cmdErr ++ BitVec.ofBool s.done ++ BitVec.ofBool s.busy

/-- `digest_out`: DigestState, driven continuously (R52). While `hdef = false` a host observes an unspecified value,
which is any value (R29, R221 code 3, D30; log 9). -/
def digestOut (s : State) : DigestBits :=
  if s.hdef then packDigest s.H else Config.freeDigest s.draws

/-- Everything a host sees at the output ports (R50). -/
structure Outputs where
  cmdReady : Bool
  busy : Bool
  done : Bool
  cmdErr : Bool
  digestOut : DigestBits
deriving DecidableEq, Repr

/-- The output ports in the state `s` (R50). -/
def outputs (s : State) : Outputs := ⟨cmdReady s, s.busy, s.done, s.cmdErr, digestOut s⟩

/-- The abnormal conditions that the engine and its model distinguish (R221). -/
inductive Condition where
  /-- Acceptance of `cmd = 11`: recorded in `cmd_err`. -/
  | reservedCommand
  /-- Acceptance of COMPRESS with `hdef = false`: the model faults. -/
  | uninitialisedDigest
  /-- `digest_out` sampled while `hdef = false`: the read returns any value. -/
  | unspecifiedDigestRead
deriving DecidableEq, Repr

/-- The code of each condition (R221). -/
def Condition.code : Condition → Nat
  | .reservedCommand => 1
  | .uninitialisedDigest => 2
  | .unspecifiedDigestRead => 3

/-- The condition that the acceptance of a command raises: at most one (R221, R223). -/
def acceptCondition (i : Instr) (s : State) : Option Condition :=
  match i with
  | .nop => none
  | .init => none
  | .compress _ => if s.hdef then none else some .uninitialisedDigest
  | .reserved => some .reservedCommand

/-- The condition that sampling `digest_out` raises (R221). -/
def readCondition (s : State) : Option Condition :=
  if s.hdef then none else some .unspecifiedDigestRead

end Sys2Proof.Machine
end

