-- ==== Sys2Proof/Machine/WordFunctions.lean ====
section
/-! DEFINITION. The word primitives (00_scope R11) and the six functions of SHA-256 on words (42_schedule R120, R121;
43_rounds R142 to R145). -/

namespace Sys2Proof.Machine

/-- `SHR(x, n)`: the logical right shift (R11). -/
def shr (x : Word) (n : Nat) : Word := x >>> n

/-- `ROTR(x, n) = SHR(x, n) or ((x * 2^(32-n)) mod 2^32)`, the value first (R11, conflict C2). -/
def rotr (x : Word) (n : Nat) : Word := shr x n ||| (x <<< (32 - n))

/-- The shape of the pipeline's two functions: three rotations of one word, combined by xor (R142, R143). -/
def threeRotations (x : Word) (p q r : Nat) : Word := rotr x p ^^^ rotr x q ^^^ rotr x r

/-- The shape of the schedule's two functions: two rotations and a shift of one word, combined by xor (R120, R121). -/
def rotationsAndShift (x : Word) (p q n : Nat) : Word := rotr x p ^^^ rotr x q ^^^ shr x n

/-- `σ0(x)` (R120). -/
def smallSigma0 (x : Word) : Word := rotationsAndShift x 7 18 3

/-- `σ1(x)` (R121). -/
def smallSigma1 (x : Word) : Word := rotationsAndShift x 17 19 10

/-- `Σ0(x)` (R142). -/
def bigSigma0 (x : Word) : Word := threeRotations x 2 13 22

/-- `Σ1(x)` (R143). -/
def bigSigma1 (x : Word) : Word := threeRotations x 6 11 25

/-- `Ch(x, y, z)`: the bits of `y` where `x` is 1, and those of `z` where it is 0 (R144). -/
def ch (x y z : Word) : Word :=
  let whereOne := x &&& y
  let whereZero := ~~~x &&& z
  whereOne ^^^ whereZero

/-- `Maj(x, y, z)`: the xor of what each two of the words have in common (R145). -/
def maj (x y z : Word) : Word :=
  let firstPair := x &&& y
  let outerPair := x &&& z
  let lastPair := y &&& z
  firstPair ^^^ outerPair ^^^ lastPair

end Sys2Proof.Machine
end

