-- ==== Sys2Proof/Machine/Rounds.lean ====
section
/-! DEFINITION. The 64-round state pipeline (43_rounds R146 to R154). -/

namespace Sys2Proof.Machine

/-- The load of the working registers: `(a, ..., h) <- (H[0], ..., H[7])` (R150). -/
def workOfDigest (H : Vector Word 8) : Working :=
  ⟨H[0], H[1], H[2], H[3], H[4], H[5], H[6], H[7]⟩

/-- `T1 = (h + Σ1(e) + Ch(e,f,g) + K[t] + W[t]) mod 2^32` (R146). -/
def tempT1 (k w : Word) (r : Working) : Word := r.h + bigSigma1 r.e + ch r.e r.f r.g + k + w

/-- `T2 = (Σ0(a) + Maj(a,b,c)) mod 2^32` (R147). -/
def tempT2 (r : Working) : Word := bigSigma0 r.a + maj r.a r.b r.c

/-- The round step on the working registers, every right-hand side read before the step (R12, R151). -/
def roundStep (k w : Word) (r : Working) : Working where
  a := tempT1 k w r + tempT2 r
  b := r.a
  c := r.b
  d := r.c
  e := r.d + tempT1 k w r
  f := r.e
  g := r.f
  h := r.g

/-- Rounds `0..n-1`, in that order, exactly once each, round `t` reading `K[t]` and `W[t]` and no other entry (R141,
R152). -/
def roundsTo (r : Working) (W : Vector Word 64) : Nat → Working
  | 0 => r
  | n + 1 => if h : n < 64 then roundStep kRom[n] W[n] (roundsTo r W n) else roundsTo r W n

/-- `Rounds(H, W)` (R154). -/
def rounds (H : Vector Word 8) (W : Vector Word 64) : Working := roundsTo (workOfDigest H) W 64

end Sys2Proof.Machine
end

