-- ==== Sys2Proof/Machine/Schedule.lean ====
section
/-! DEFINITION. The message schedule expander (42_schedule R122 to R125). -/

namespace Sys2Proof.Machine

/-- Schedule load: `W[i] <- blk[511-32i : 480-32i]` for `i` in 0..15; the other words keep what they hold (R122). -/
def loadWords (blk : Block) (W : Vector Word 64) : Vector Word 64 :=
  Vector.ofFn fun i => if h : i.val < 16 then blockWord blk ⟨i.val, h⟩ else W[i]

/-- The value of `W[t]`, `t` in 16..63 (R123): `σ1(W[t-2]) + W[t-7] + σ0(W[t-15]) + W[t-16]` mod 2^32. -/
def nextWord (W : Vector Word 64) (t : Fin 64) : Word :=
  smallSigma1 W[t.val - 2] + W[t.val - 7] + smallSigma0 W[t.val - 15] + W[t.val - 16]

/-- One step of the expander: computes `W[t]` where `t >= 16`; the first 16 words are the block's own (R123, C6). -/
def expandAt (t : Fin 64) (W : Vector Word 64) : Vector Word 64 :=
  if 16 ≤ t.val then W.set t.val (nextWord W t) else W

/-- The expander run for `t` in 0..n-1, in increasing order (R123, R124). -/
def expandTo (W : Vector Word 64) : Nat → Vector Word 64
  | 0 => W
  | n + 1 => if h : n < 64 then expandAt ⟨n, h⟩ (expandTo W n) else expandTo W n

/-- `Schedule(blk)`: the 64 words that R122 and R123 give for `blk` (R125). Every word past the 16 loaded ones is
computed before it is read, so the zeros it starts from do not show. -/
def schedule (blk : Block) : Vector Word 64 :=
  expandTo (loadWords blk (Vector.replicate 64 0)) 64

end Sys2Proof.Machine
end

