-- ==== Sys2Proof/Machine/Fold.lean ====
section
/-! DEFINITION. The modular-add fold-back and the compression function (44_fold R172 to R175). -/

namespace Sys2Proof.Machine

/-- `Fold(H, R)`: word `i` is `(H[i] + R[i]) mod 2^32`; the eight carries are independent and discarded (R172, R173). -/
def fold (H : Vector Word 8) (r : Working) : Vector Word 8 :=
  #v[H[0] + r.a, H[1] + r.b, H[2] + r.c, H[3] + r.d, H[4] + r.e, H[5] + r.f, H[6] + r.g, H[7] + r.h]

/-- `Compress(H, blk) = Fold(H, Rounds(H, Schedule(blk)))` (R174). -/
def compress (H : Vector Word 8) (blk : Block) : Vector Word 8 := fold H (rounds H (schedule blk))

/-- The chain over the blocks of a message, in order (R107, R175). -/
def compressAll (H : Vector Word 8) : List Block → Vector Word 8
  | [] => H
  | blk :: rest => compressAll (compress H blk) rest

end Sys2Proof.Machine
end

