-- ==== Sys2Proof/Machine/Ops.lean ====
section
/-! DEFINITION. The named operations on State that the commands, the progress of a COMPRESS and the reset are made
of. No exception is ever taken (60_exceptions R220, R224, R225), so there is no trap entry and no return from one: what
stands in its place is the record of a reserved command, `latchCmdErr`. -/

namespace Sys2Proof.Machine

/-- `H[i] <- IV[i]`, which makes DigestState defined (R102, R171). -/
def loadIv (s : State) : State := { s with H := ivRom, hdef := true }

/-- `done <- 1` (R27). -/
def setDone (s : State) : State := { s with done := true }

/-- `cmd_err <- 1`, which only reset clears (R28, R105): the whole of what the engine does about a reserved command. -/
def latchCmdErr (s : State) : State := { s with cmdErr := true }

/-- `W[i] <- blk[511-32i : 480-32i]` for `i` in 0..15 (R103, R122). -/
def loadSchedule (blk : Block) (s : State) : State := { s with W := loadWords blk s.W }

/-- `(a, ..., h) <- (H[0], ..., H[7])` and `t <- 0` (R24, R103, R150). -/
def loadWorking (s : State) : State := { s with work := workOfDigest s.H, t := 0 }

/-- COMPRESS_LATENCY for the draw `d`: any integer L >= 1 (R8, U5; log 5). -/
def compressLatency (d : Nat) : Nat := Config.extraEdges d + 1

/-- `busy <- 1`, `done <- 0`, `inflight <- (blk, L)`, with `L` drawn anew (R103). -/
def launch (blk : Block) (s : State) : State :=
  { s with
    busy := true
    done := false
    inflight := some ⟨blk, compressLatency s.draws⟩
    draws := s.draws + 1 }

/-- The expander's word and the round of the counter `t`, then `t <- t + 1` (R123, R151); nothing once all 64 rounds
have run (R24: no wrap-around past 63). -/
def roundEdge (s : State) : State :=
  if h : s.t < 64 then
    { s with
      W := expandAt ⟨s.t, h⟩ s.W
      work := roundStep kRom[s.t] (expandAt ⟨s.t, h⟩ s.W)[s.t] s.work
      t := s.t + 1 }
  else s

/-- `n` rounds, one after the other (R152). -/
def roundEdges : Nat → State → State
  | 0, s => s
  | n + 1, s => roundEdges n (roundEdge s)

/-- The rounds that are still to run (R104: any schedule with the same result at the completion edge; log 6). -/
def finishRounds (s : State) : State := roundEdges (64 - s.t) s

/-- `inflight <- (blk, n - 1)` (R104). -/
def countDown (s : State) : State :=
  { s with inflight := s.inflight.map fun f => { f with remaining := f.remaining - 1 } }

/-- The fold-back: the working registers into DigestState, all eight at one edge (R172). -/
def foldBack (s : State) : State := { s with H := fold s.H s.work }

/-- `busy <- 0`, `done <- 1`, `inflight <- none` (R104, R172). The schedule is discarded and `t` is unspecified from
here on (R23, R24, U2): free values (log 8). `a..h` keep their last value (R22). -/
def retire (s : State) : State :=
  { s with
    busy := false
    done := true
    inflight := none
    W := Vector.ofFn fun i => Config.freeWord s.draws (16 + i.val)
    t := (Config.freeRound s.draws).val
    draws := s.draws + 1 }

/-- DigestState, `a..h`, `W` and `t` become unspecified: free values (R36, R240, R241; log 4). -/
def scramble (s : State) : State :=
  { s with
    H := Vector.ofFn fun i => Config.freeWord s.draws i.val
    work := workOfDigest (Vector.ofFn fun i => Config.freeWord s.draws (8 + i.val))
    W := Vector.ofFn fun i => Config.freeWord s.draws (16 + i.val)
    t := (Config.freeRound s.draws).val
    draws := s.draws + 1 }

/-- `Reset()`: the status bits, `hdef` and the COMPRESS in flight (R240). -/
def clearStatus (s : State) : State :=
  { s with busy := false, done := false, cmdErr := false, hdef := false, inflight := none }

/-- Go on from a next state; a fault or a refusal ends the run. -/
def andThen {α β : Type} (x : Host.Outcome α Fault Refusal) (k : α → Host.Outcome β Fault Refusal) : Host.Outcome β Fault Refusal :=
  match x with
  | .next s => k s
  | .fault r => .fault r
  | .refused r => .refused r

end Sys2Proof.Machine
end

