-- ==== Sys2Proof/Machine/Commands.lean ====
section
/-! DEFINITION. The meaning of each command at its acceptance edge (41_commands R101, R102, R103, R105). -/

namespace Sys2Proof.Machine

/-- NOP: nothing changes, not even `done` (R101, D29). -/
def execNop (s : State) : Host.Outcome State Fault Refusal := .next s

/-- INIT: `H <- IV`, `done <- 1`, `hdef <- true`; `busy` and `cmd_err` are kept (R102). -/
def execInit (s : State) : Host.Outcome State Fault Refusal := .next (setDone (loadIv s))

/-- COMPRESS, acceptance: the block is captured and the COMPRESS is in flight; DigestState is not written at this edge
(R21, R103). Where DigestState is not defined the spec gives a model no next state but `raise
ModelFault(UninitialisedDigest)` (R103, R221 code 2, D10). -/
def execCompress (blk : Block) (s : State) : Host.Outcome State Fault Refusal :=
  if s.hdef then .next (launch blk (loadWorking (loadSchedule blk s)))
  else .fault .uninitialisedDigest

/-- The reserved command: accepted, recorded in `cmd_err`, otherwise a NOP (R105, R224). -/
def execReserved (s : State) : Host.Outcome State Fault Refusal := .next (latchCmdErr s)

end Sys2Proof.Machine
end

