-- ==== Sys2Proof/Machine/Edge.lean ====
section
/-! DEFINITION. The edge step (41_commands R100): one rising edge of `clk` under the values the host drives. -/

namespace Sys2Proof.Machine

/-- `Reset()` (R240): whatever was in flight is abandoned (R241) and no command is accepted. -/
def resetEdge (s : State) : State := clearStatus (scramble s)

/-- The completion edge of a COMPRESS: the rounds that are left, the fold-back, the status (R104, R172). -/
def completeCompress (s : State) : State := retire (foldBack (finishRounds s))

/-- `Progress()` (R104): an edge of a COMPRESS in flight. An edge before the last runs one round and counts down
(the reference schedule, log 6); the last one completes. -/
def progress (s : State) : Host.Outcome State Fault Refusal :=
  match s.inflight with
  | none => .refused .stateBeforeReset
  | some f => if 1 < f.remaining then .next (countDown (roundEdge s)) else .next (completeCompress s)

/-- One rising edge: reset, then the command in flight, then a new command, else nothing changes (R100, R223, D21). -/
def edge (p : PortSample) (s : State) : Host.Outcome State Fault Refusal :=
  if p.rst then .next (resetEdge s)
  else if s.busy then progress s
  else if p.cmdValid then exec (decode p.cmd p.blockIn) s
  else .next s

/-- A host that drives nothing: `rst = 0`, `cmd_valid = 0` (log 1). -/
def idleSample : PortSample := ⟨false, false, 0, 0⟩

/-- What the host drives at the next edge (log 1). -/
def nextSample (s : State) : PortSample := s.inputs.headD idleSample

/-- The samples after the next edge's (log 1). -/
def dropSample (s : State) : State := { s with inputs := s.inputs.tail }

/-- The sample that offers a transaction: `rst = 0`, `cmd_valid = 1`. -/
def offerSample (w : Transaction) : PortSample := ⟨false, true, Transaction.cmd w, Transaction.blockIn w⟩

/-- The same for a transaction given as a number (log 13). -/
def offerWord (w : Nat) : PortSample := ⟨false, true, wordCmd w, wordBlock w⟩

/-- The host drives the sample at the very next edge, before whatever it was going to drive (log 2). -/
def offerNext (p : PortSample) (s : State) : State := { s with inputs := p :: s.inputs }

end Sys2Proof.Machine
end

