-- ==== Sys2Proof/Machine/Step.lean ====
section
/-! DEFINITION. One step of the machine is one rising edge of `clk`, under the next sample of the input ports. -/

namespace Sys2Proof.Machine

/-- One rising edge (R100), the host driving the first sample of `inputs` and the others left for the edges after. -/
def step (s : State) : Host.Outcome State Fault Refusal := edge (nextSample s) (dropSample s)

/-- The transaction whose low `nbits` bits are those of `w`, offered at the very next edge (log 2). The engine does not
fetch (R64): a command comes from the ports. -/
def State.withFetchWord (s : State) (nbits w : Nat) : State :=
  offerNext (offerWord (w % 2 ^ nbits)) s

end Sys2Proof.Machine
end

