-- ==== Sys2Proof/Machine/Run.lean ====
section
/-! DEFINITION. Runs of the machine: one rising edge after another. -/

namespace Sys2Proof.Machine

/-- `n` rising edges, each under the next sample of `inputs`; a fault or a refusal ends the run (R100, log 1). -/
def runSteps : Nat → State → Host.Outcome State Fault Refusal
  | 0, s => .next s
  | n + 1, s => andThen (step s) (runSteps n)

end Sys2Proof.Machine
end

