-- ==== Sys2Proof/Machine/Instances.lean ====
section
/-! DEFINITION. Several engines (20_memory R66, 60_exceptions R230): each has its own State, and all share only the
ROMs, which nothing writes. -/

namespace Sys2Proof.Machine

/-- One rising edge at the engine of index `k`, the others' clocks left alone; nothing where there is no such
engine (log 15). Two points the spec leaves open are the model's choice. All engines draw their unspecified values and
latencies from the same constants of Config, each at its own counter, so two engines with equal `draws` agree in them
(log 25). A fault or a refusal of one engine ends the run of the whole list and leaves no state of the others (log
26). -/
def stepInstance (k : Nat) (engines : List State) : Host.Outcome (List State) Fault Refusal :=
  match engines[k]? with
  | none => .next engines
  | some s => andThen (step s) fun s' => .next (engines.set k s')

end Sys2Proof.Machine
end

