-- ==== Sys2Proof/Machine/ScriptText.lean ====
section
/-! DEFINITION. The text of a host command script (30_encoding R78, R79): one command per line, a semicolon starting a
comment. What the spec's notation leaves open is fixed in log 24. -/

namespace Sys2Proof.Machine

/-- Why a line of text is no script line. -/
inductive ScriptError where
  /-- Its first word is none of the eight. -/
  | unknownCommand
  /-- A word is missing, or there is one too many. -/
  | badOperands
  /-- COMPRESS without `0x` and exactly 128 hex digits. -/
  | badBlock
  /-- HASH without a quoted byte string, or with a character that is no byte (R195). -/
  | badMessage
deriving DecidableEq, Repr

/-- The value of a hex digit of either case (log 24); 16, which is no digit, for any other character. -/
def hexValue (c : Char) : Nat :=
  let n := c.toNat
  if 48 ≤ n ∧ n ≤ 57 then n - 48
  else if 97 ≤ n ∧ n ≤ 102 then n - 87
  else if 65 ≤ n ∧ n ≤ 70 then n - 55
  else 16

/-- The text before the first semicolon (R78). -/
def stripComment (l : List Char) : List Char := l.takeWhile fun c => c.toNat != 59

/-- The words of a line: what stands between blanks. -/
def lineWords (l : List Char) : List (List Char) :=
  (l.splitOn ' ').filter fun w => !w.isEmpty

/-- A COMPRESS operand, `0x` and its digits. -/
def parseBlock (w : List Char) : Except ScriptError HostLine :=
  match w with
  | '0' :: 'x' :: digits =>
    let l := HostLine.compress (digits.map hexValue)
    if l.wellFormed then .ok l else .error .badBlock
  | _ => .error .badBlock

/-- A HASH operand: the bytes between the first double quote (character 34) and the next. What the line holds beside
the quoted string, before it or after it, is ignored: R79 does not say, and this is the model's choice (log 24). -/
def parseMessage (l : List Char) : Except ScriptError HostLine :=
  match l.dropWhile fun c => c.toNat != 34 with
  | [] => .error .badMessage
  | _ :: rest =>
    let body := rest.takeWhile fun c => c.toNat != 34
    if body.length < rest.length ∧ body.all (fun c => c.toNat < 256) then
      .ok (.hash (body.map fun c => BitVec.ofNat 8 c.toNat))
    else .error .badMessage

/-- One line of a script: none for a line with no command on it. -/
def parseLine (text : List Char) : Except ScriptError (Option HostLine) :=
  let l := stripComment text
  match lineWords l with
  | [] => .ok none
  | ['N', 'O', 'P'] :: ops => if ops = [] then .ok (some .nop) else .error .badOperands
  | ['I', 'N', 'I', 'T'] :: ops => if ops = [] then .ok (some .init) else .error .badOperands
  | ['R', 'S', 'V'] :: ops => if ops = [] then .ok (some .rsv) else .error .badOperands
  | ['W', 'A', 'I', 'T'] :: ops => if ops = [] then .ok (some .wait) else .error .badOperands
  | ['R', 'E', 'S', 'E', 'T'] :: ops => if ops = [] then .ok (some .reset) else .error .badOperands
  | ['C', 'O', 'M', 'P', 'R', 'E', 'S', 'S'] :: ops =>
    match ops with
    | [w] => (parseBlock w).map some
    | _ => .error .badOperands
  | ['R', 'E', 'A', 'D'] :: ops =>
    match ops with
    | [['-', '>'], name] => .ok (some (.read name))
    | _ => .error .badOperands
  | ['H', 'A', 'S', 'H'] :: _ => (parseMessage l).map some
  | _ => .error .unknownCommand

/-- A whole script, its lines in order. -/
def parseScript : List (List Char) → Except ScriptError (List HostLine)
  | [] => .ok []
  | text :: rest =>
    match parseLine text, parseScript rest with
    | .ok none, r => r
    | .ok (some l), .ok ls => .ok (l :: ls)
    | .ok (some _), .error e => .error e
    | .error e, _ => .error e

end Sys2Proof.Machine
end

