-- ==== Sys2Proof/Machine/HostSide.lean ====
section
/-! DEFINITION. The host-side obligations (45_host_side R190 to R199): padding before the engine runs, hex rendering
after it. They are no part of the engine (00_scope R5, D1), which checks none of them (R190); log 18, log 19. -/

namespace Sys2Proof.Machine

/-- The number of zero bytes of the padding, `z = (55 - len) mod 64` (R191, conflict C3). -/
def zeroCount (len : Nat) : Nat := (119 - len % 64) % 64

/-- The number of blocks, `n = floor((len + 8) / 64) + 1` (R191). -/
def blockCount (len : Nat) : Nat := (len + 8) / 64 + 1

/-- `BE64(n)`: 8 bytes, the most significant first (R192). For `n` of 2^64 or more, where the spec gives no 8 bytes, it
is those of `n` modulo 2^64: the model's choice (log 10). -/
def be64 (n : Nat) : List Byte := (List.range 8).map fun k => BitVec.ofNat 8 (n / 256 ^ (7 - k))

/-- `LenField(len)`, the bit-length as LEN_MODE says (R192). Under FULL64 with `8 * len` of 2^64 or more, where R194 has
the host refuse the message, its value is the model's choice (log 10). -/
def lenField (mode : LenMode) (len : Nat) : List Byte :=
  match mode with
  | .full64 => be64 (8 * len)
  | .trunc32 => be64 (8 * len % 2 ^ 32)

/-- `Pad(M)`: the message, one 0x80 byte, `z` zero bytes, the length field (R191; beyond FULL64's range log 10). -/
def pad (mode : LenMode) (m : List Byte) : List Byte :=
  m ++ 0x80#8 :: List.replicate (zeroCount m.length) 0x00#8 ++ lenField mode m.length

/-- The block whose 64 bytes in message order are `bs`, the first in the most significant lane (R51). -/
def blockOfBytes (bs : List Byte) : Block :=
  BitVec.ofNat 512 (bs.foldl (fun acc b => acc * 256 + b.toNat) 0)

/-- The blocks `P_i = P[64i .. 64i+63]` of the padded message (R191). -/
def padBlocks (mode : LenMode) (m : List Byte) : List Block :=
  (List.range (blockCount m.length)).map fun i => blockOfBytes (((pad mode m).drop (64 * i)).take 64)

/-- The range in which the length field is exact: `8 * len < 2^64` under FULL64, `len < 2^29` under TRUNC32 (R192,
R194). -/
def lengthExact (mode : LenMode) (len : Nat) : Bool :=
  match mode with
  | .full64 => 8 * len < 2 ^ 64
  | .trunc32 => len < 2 ^ 29

/-- Whether the host goes on with a message (R194): under FULL64 it must refuse one whose length cannot be encoded;
under TRUNC32 OVERRANGE_POLICY decides (log 19). -/
def hostAccepts (mode : LenMode) (policy : OverrangePolicy) (len : Nat) : Bool :=
  lengthExact mode len || (mode == .trunc32 && policy == .bestEffort)

/-- The alphabet of `Hex`: `0123456789abcdef` (R196). -/
def hexAlphabet : List Char :=
  ['0', '1', '2', '3', '4', '5', '6', '7', '8', '9', 'a', 'b', 'c', 'd', 'e', 'f']

/-- One lowercase hex character. -/
def hexChar (d : BitVec 4) : Char := hexAlphabet.getD d.toNat '0'

/-- Two lowercase hex characters, high nibble first (R196). -/
def hexByte (b : Byte) : List Char := [hexChar (b.extractLsb' 4 4), hexChar (b.extractLsb' 0 4)]

/-- `Hex(D)`: the 32 bytes of `digest_out` in increasing order, two characters each (R196). -/
def hexDigest (D : DigestBits) : List Char :=
  (List.finRange 32).flatMap fun k => hexByte (digestByte D k)

/-- The final DigestState of a message as `digest_out` shows it: the chain over the blocks of `Pad(M)` from IV (R107,
R175, R176); for a message that FULL64 cannot encode it is the model's choice (log 10). -/
def messageDigest (mode : LenMode) (m : List Byte) : DigestBits :=
  packDigest (compressAll ivRom (padBlocks mode m))

/-- The source's `digest(input) -> hexString` (R197), for a message that the host goes on with (R194). -/
def softwareDigest (mode : LenMode) (policy : OverrangePolicy) (m : List Byte) : Option (List Char) :=
  if hostAccepts mode policy m.length then some (hexDigest (messageDigest mode m)) else none

/-- `digest(input) -> hexString` of a host that leaves LEN_MODE at its default (R8, R197). -/
def digest (policy : OverrangePolicy) (m : List Byte) : Option (List Char) :=
  softwareDigest Config.defaultLenMode policy m

end Sys2Proof.Machine
end

