-- ==== Sys2Proof/Machine/Script.lean ====
section
/-! DEFINITION. The host that runs a command script (30_encoding R78, R79): it watches `busy`, holds each offer until an
acceptance edge takes it, waits, resets and reads (log 20). It drives `edge` itself and uses no sample of `inputs`. -/

namespace Sys2Proof.Machine

/-- What a script line makes the host do at the ports. -/
inductive HostAct where
  /-- Hold `cmd_valid = 1` with this transaction until an acceptance edge takes it (R78). -/
  | offer (w : Transaction)
  /-- Hold `cmd_valid = 0` until `busy = 0` (R79). -/
  | wait
  /-- Sample `digest_out` into a host variable (R79); no edge is needed (R55). -/
  | read (name : List Char)
  /-- `rst = 1` for one rising edge (R79). -/
  | reset
deriving DecidableEq, Repr

/-- The engine and the host variables that a script has filled, oldest first. -/
structure HostRun where
  engine : State
  readings : List (List Char × DigestBits)
deriving DecidableEq, Repr

/-- The block of the hexadecimal digits of a COMPRESS line, the first two of them `B[0]` (R78). -/
def blockOfDigits (digits : List Nat) : Block :=
  BitVec.ofNat 512 (digits.foldl (fun acc d => acc * 16 + d) 0)

/-- What a message's hashing does at the ports: INIT, COMPRESS of each block in order, WAIT, READ (R79, R107, R244). -/
def hashActs (blocks : List Block) : List HostAct :=
  .offer (encode .init) :: blocks.map (fun blk => .offer (encode (.compress blk))) ++ [.wait, .read []]

/-- The port activity of a script line (R78, R79); none for a message that the host does not go on with (R194). -/
def expandLine (mode : LenMode) (policy : OverrangePolicy) (l : HostLine) : Option (List HostAct) :=
  match l with
  | .nop => some [.offer (encode .nop)]
  | .init => some [.offer (encode .init)]
  | .compress digits => some [.offer (encode (.compress (blockOfDigits digits)))]
  | .rsv => some [.offer (encode .reserved)]
  | .wait => some [.wait]
  | .read name => some [.read name]
  | .reset => some [.reset]
  | .hash m => if hostAccepts mode policy m.length then some (hashActs (padBlocks mode m)) else none

/-- `n` edges under the same sample. -/
def driveEdges (p : PortSample) : Nat → State → Host.Outcome State Fault Refusal
  | 0, s => .next s
  | n + 1, s => andThen (edge p s) (driveEdges p n)

/-- The edges until `busy = 0` (R104): none where nothing is in flight. -/
def edgesLeft (s : State) : Nat :=
  if s.busy then
    match s.inflight with
    | some f => max 1 f.remaining
    | none => 1
  else 0

/-- Hold an offer through the edges at which `busy = 1` and one edge more, the acceptance edge (R78, R106, R245). -/
def offerUntilTaken (p : PortSample) (s : State) : Host.Outcome State Fault Refusal :=
  andThen (driveEdges p (edgesLeft s) s) (edge p)

/-- The state after a host has sampled `digest_out`: reading changes nothing of the engine (R55), and where the value
was a draw the model's counter moves on (D30, log 9). -/
def noteRead (s : State) : State := if s.hdef then s else { s with draws := s.draws + 1 }

/-- The sample of a reset edge. -/
def resetSample : PortSample := ⟨true, false, 0, 0⟩

/-- One act of the host. -/
def runAct (act : HostAct) (r : HostRun) : Host.Outcome HostRun Fault Refusal :=
  match act with
  | .offer w => andThen (offerUntilTaken (offerSample w) r.engine) fun s => .next { r with engine := s }
  | .wait => andThen (driveEdges idleSample (edgesLeft r.engine) r.engine) fun s => .next { r with engine := s }
  | .read name => .next ⟨noteRead r.engine, r.readings ++ [(name, digestOut r.engine)]⟩
  | .reset => andThen (edge resetSample r.engine) fun s => .next { r with engine := s }

/-- The acts of the host, in order. -/
def runActs : List HostAct → HostRun → Host.Outcome HostRun Fault Refusal
  | [], r => .next r
  | act :: rest, r => andThen (runAct act r) (runActs rest)

/-- A script, line by line (R78, R79). -/
def runScript (mode : LenMode) (policy : OverrangePolicy) : List HostLine → HostRun → Host.Outcome HostRun Fault Refusal
  | [], r => .next r
  | l :: rest, r =>
    match expandLine mode policy l with
    | none => .refused .messageOutOfRange
    | some acts => andThen (runActs acts r) (runScript mode policy rest)

/-- A script run by a host that leaves LEN_MODE at its default (R8). -/
def runScriptDefault (policy : OverrangePolicy) (lines : List HostLine) (r : HostRun) :
    Host.Outcome HostRun Fault Refusal :=
  runScript Config.defaultLenMode policy lines r

end Sys2Proof.Machine
end

