-- ==== Sys2Proof/Machine/TransactionLevel.lean ====
section
/-! DEFINITION. The engine at transaction level, the level the spec calls normative (10_state R37, D39), written from
41_commands R100 to R105 and 70_reset R240 alone: no working register, schedule or counter. The cycle-level `edge` is
held against it. -/

namespace Sys2Proof.Machine

/-- The transaction-level state of R37. DigestState and `hdef` are one optional value: none is `hdef = false`, where
DigestState holds no defined value (R29). -/
structure TxState where
  digest : Option (Vector Word 8)
  busy : Bool
  done : Bool
  cmdErr : Bool
  inflight : Option InFlight
deriving DecidableEq, Repr

/-- What a cycle-level state is at transaction level (R37). -/
def txView (s : State) : TxState where
  digest := if s.hdef then some s.H else none
  busy := s.busy
  done := s.done
  cmdErr := s.cmdErr
  inflight := s.inflight

/-- The acceptance of a command at transaction level, `L` being COMPRESS_LATENCY (R101, R102, R103, R105). -/
def txAccept (L : Nat) (i : Instr) (x : TxState) : Host.Outcome TxState Fault Refusal :=
  match i with
  | .nop => .next x
  | .init => .next { x with digest := some ivRom, done := true }
  | .compress blk =>
    match x.digest with
    | none => .fault .uninitialisedDigest
    | some _ => .next { x with busy := true, done := false, inflight := some ⟨blk, L⟩ }
  | .reserved => .next { x with cmdErr := true }

/-- `Progress()` at transaction level: `H <- Compress(H, blk)` at the completion edge (R104). -/
def txProgress (x : TxState) : Host.Outcome TxState Fault Refusal :=
  match x.inflight with
  | none => .refused .stateBeforeReset
  | some f =>
    if 1 < f.remaining then .next { x with inflight := some ⟨f.blk, f.remaining - 1⟩ }
    else .next
      { x with
        digest := x.digest.map fun H => compress H f.blk
        busy := false
        done := true
        inflight := none }

/-- One rising edge at transaction level (R100, R240). -/
def txEdge (L : Nat) (p : PortSample) (x : TxState) : Host.Outcome TxState Fault Refusal :=
  if p.rst then .next ⟨none, false, false, false, none⟩
  else if x.busy then txProgress x
  else if p.cmdValid then txAccept L (decode p.cmd p.blockIn) x
  else .next x

/-- An outcome seen at transaction level. -/
def txOutcome : Host.Outcome State Fault Refusal → Host.Outcome TxState Fault Refusal
  | .next s => .next (txView s)
  | .fault r => .fault r
  | .refused r => .refused r

end Sys2Proof.Machine
end

