-- ==== Sys2Proof/Safety.lean ====
section
/-! DEFINITION. What counts as a good state and a safe run, in the terms that claims use. -/

namespace Sys2Proof.Machine

/-- A COMPRESS in flight is coherent: an edge is left (R8: L >= 1), the counter is in its range (R24), the working
registers are those of the rounds run so far from DigestState (R150, R152), and the schedule's words are the block's,
as far as they have been made (R122, R123). -/
structure FlightCoherent (s : State) (f : InFlight) : Prop where
  edge_left : 1 ≤ f.remaining
  round_range : s.t ≤ 64
  working : s.work = roundsTo (workOfDigest s.H) (schedule f.blk) s.t
  words : ∀ (j : Nat) (h : j < 64), j < max 16 s.t → s.W[j] = (schedule f.blk)[j]

/-- The invariants of every reachable state: those of R38, DigestState defined where a result or a COMPRESS depends on
it (R29, R103), and the coherence of what is in flight. -/
structure State.Inv (s : State) : Prop where
  busy_iff_inflight : s.busy = s.inflight.isSome
  not_busy_and_done : ¬(s.busy = true ∧ s.done = true)
  busy_defined : s.busy = true → s.hdef = true
  done_defined : s.done = true → s.hdef = true
  flight : ∀ f, s.inflight = some f → FlightCoherent s f

/-- The premise R105 gives every claim: no reserved command has been accepted since reset. -/
def State.noFaultBit (s : State) : Bool := !s.cmdErr

/-- A command a host may issue when nothing is in flight: no reserved one (R105), and COMPRESS only after an INIT
(hazard H3, R247). -/
def commandAllowed (i : Instr) (s : State) : Bool :=
  match i with
  | .nop => true
  | .init => true
  | .compress _ => s.hdef
  | .reserved => false

/-- Hazard H1 (R245), by the rule's last sentence: an offer made at an edge with `cmd_ready = 0` stands unchanged at the
next edge; after an edge with `cmd_ready = 1` and `cmd_valid = 1` it may change. `p` is what the host drove at the edge
out of `s`, `q` what it drives at the edge after. That `p.rst` plays no part, so that an offer which a reset edge with
`busy = 0` turned away may change too, is the model's choice (log 27). -/
def offerHeld (s : State) (p q : PortSample) : Bool :=
  !(p.cmdValid && !cmdReady s) || (q.cmdValid && q.cmd == p.cmd && q.blockIn == p.blockIn)

/-- A safe outcome: a next state with the fault bit clear. -/
def safeOutcome : Host.Outcome State Fault Refusal → Bool
  | .next s => s.noFaultBit
  | .fault _ => false
  | .refused _ => false

end Sys2Proof.Machine
end

