-- ==== Sys2Proof/Certificates/Slice0/Obligations.lean ====
section
/-! DEFINITION. The statements for the provers: what the rules of spec/ say the commands and the engine do. -/

open Sys2Proof Sys2Proof.Machine

/-! ### The four commands at their acceptance edge -/

/-- R101: NOP, whatever stands on `block_in`, completes and changes nothing: no register, no status bit, no other
field. -/
def Obligations.NopCompletesUnchanged : Prop :=
  ∀ (s : State) (blk : Block), exec (decode 0b00#2 blk) s = .next s

/-- R102: INIT, whatever stands on `block_in`, completes; DigestState is IV, `done` and `hdef` are set, and every
other field is kept (`busy`, `cmd_err`, `a..h`, `W`, `t`, what is in flight, the counter of draws, the inputs). A second
INIT changes nothing, and `digest_out` shows the value of the rule's example. -/
def Obligations.InitCompletes : Prop :=
  ∀ (s : State) (blk : Block), ∃ t, exec (decode 0b01#2 blk) s = .next t ∧
    t = { s with H := ivRom, done := true, hdef := true } ∧
    exec (decode 0b01#2 blk) t = .next t ∧
    digestOut t = 0x6a09e667bb67ae853c6ef372a54ff53a510e527f9b05688c1f83d9ab5be0cd19

/-- R103 at the acceptance edge, R122, R150: with DigestState defined, COMPRESS completes its acceptance for every
block: the 16 words are the block's big-endian words, `a..h` are DigestState's, `t` is 0, `busy` is set and `done`
cleared, the block is in flight with at least one edge left; every other field is kept (but the model's own counter of
draws, log 12), DigestState among them, so `digest_out` shows what it showed; and what the ports carry after that edge,
without a reset, makes no difference. With `hdef = false` it stops with `ModelFault(UninitialisedDigest)`. -/
def Obligations.CompressAccepted : Prop :=
  ∀ (s : State) (blk : Block),
    (s.hdef = true → ∃ t L, exec (decode 0b10#2 blk) s = .next t ∧ 1 ≤ L ∧
      (∀ i : Fin 16, t.W[i.val] = BitVec.extractLsb' (480 - 32 * i.val) 32 blk) ∧
      (∀ j : Fin 64, 16 ≤ j.val → t.W[j.val] = s.W[j.val]) ∧
      t.work = ⟨s.H[0], s.H[1], s.H[2], s.H[3], s.H[4], s.H[5], s.H[6], s.H[7]⟩ ∧
      t.t = 0 ∧ t.busy = true ∧ t.done = false ∧ t.inflight = some ⟨blk, L⟩ ∧
      t.H = s.H ∧ t.cmdErr = s.cmdErr ∧ t.hdef = s.hdef ∧ t.inputs = s.inputs ∧ digestOut t = digestOut s ∧
      (∀ p q : PortSample, p.rst = false → q.rst = false → edge p t = edge q t)) ∧
    (s.hdef = false → exec (decode 0b10#2 blk) s = .fault .uninitialisedDigest)

/-- R105: the reserved command, whatever stands on `block_in`, completes; `cmd_err` is set and every other field is
kept; a second one leaves it set. Offered while a COMPRESS is in flight, it is not accepted and sets nothing. -/
def Obligations.ReservedCompletes : Prop :=
  (∀ (s : State) (blk : Block), ∃ t, exec (decode 0b11#2 blk) s = .next t ∧ t = { s with cmdErr := true } ∧
    exec (decode 0b11#2 blk) t = .next t) ∧
  (∀ (s s' : State) (p : PortSample), s.busy = true → p.rst = false → p.cmd = 0b11#2 →
    edge p s = .next s' → s'.cmdErr = s.cmdErr)

/-- R105's premise and hazard H3 (R247): a command the host may issue completes and leaves the fault bit clear. -/
def Obligations.AllowedCommandsAreSafe : Prop :=
  ∀ (i : Instr) (s : State), commandAllowed i s = true → s.noFaultBit = true → safeOutcome (exec i s) = true

/-- R220, R221, R223: a command raises at most one condition, and only as the table says: code 1 for the reserved
command, code 2 for COMPRESS with `hdef = false`; sampling `digest_out` raises code 3 exactly with `hdef = false`; the
model faults exactly where the condition is code 2, and never refuses a command. -/
def Obligations.OneConditionPerCommand : Prop :=
  ∀ (i : Instr) (s : State),
    ((acceptCondition i s).map Condition.code = some 1 ↔ opcode i = 0b11#2) ∧
    ((acceptCondition i s).map Condition.code = some 2 ↔ opcode i = 0b10#2 ∧ s.hdef = false) ∧
    (acceptCondition i s ≠ some .unspecifiedDigestRead) ∧
    ((readCondition s).map Condition.code = some 3 ↔ s.hdef = false) ∧
    (exec i s = .fault .uninitialisedDigest ↔ (acceptCondition i s).map Condition.code = some 2) ∧
    (∀ r, exec i s ≠ .refused r)

/-! ### The edge and the step -/

/-- R100: one edge does exactly one thing, in the order reset, the command in flight, a new command, nothing. -/
def Obligations.EdgePriority : Prop :=
  ∀ (p : PortSample) (s : State),
    (p.rst = true → edge p s = .next (resetEdge s)) ∧
    (p.rst = false → s.busy = true → edge p s = progress s) ∧
    (p.rst = false → s.busy = false → p.cmdValid = true → edge p s = exec (decode p.cmd p.blockIn) s) ∧
    (p.rst = false → s.busy = false → p.cmdValid = false → edge p s = .next s)

/-- A step runs the decoded command: with `rst = 0`, `cmd_valid = 1` and nothing in flight, the step is `exec` of what
the ports carry, on the state whose remaining samples are the rest. For every command, its own transaction on the ports
is such a sample. With no sample left the host is idle and nothing changes while nothing is in flight (the model's
choice, log 1). -/
def Obligations.StepRunsDecodedCommand : Prop :=
  (∀ (s : State) (p : PortSample) (rest : List PortSample), s.inputs = p :: rest → p.rst = false →
    p.cmdValid = true → s.busy = false → step s = exec (decode p.cmd p.blockIn) { s with inputs := rest }) ∧
  (∀ (s : State) (i : Instr), i.wellFormed = true → s.busy = false →
    step { s with inputs := offerSample (encode i) :: s.inputs } = exec i s) ∧
  (∀ s : State, s.inputs = [] → s.busy = false → step s = .next s)

/-- R106: while `busy = 1`, `cmd_ready = 0`, and what the host offers makes no difference: it is not accepted, not
queued and has no effect. -/
def Obligations.OffersWhileBusyHaveNoEffect : Prop :=
  ∀ (s : State) (p q : PortSample), s.busy = true → p.rst = false → q.rst = false →
    cmdReady s = false ∧ edge p s = edge q s

/-- Hazard H1 (R245): an offer the host holds as the hazard asks is taken, unchanged, at the edge after the one that
ended the COMPRESS in flight. -/
def Obligations.HeldOfferIsTaken : Prop :=
  ∀ (s s' : State) (p q : PortSample), s.busy = true → p.rst = false → p.cmdValid = true →
    edge p s = .next s' → s'.busy = false → offerHeld s p q = true → q.rst = false →
    edge q s' = exec (decode p.cmd p.blockIn) s'

/-- R71: format CB is COMPRESS's alone, whose block is `block_in`; at an edge at which `cmd` is not COMPRESS's code the
value on `block_in` has no effect. -/
def Obligations.FormatCIgnoresBlock : Prop :=
  (∀ (c : Cmd) (blk : Block), (decode c blk).format = .cb ↔ c = 0b10#2) ∧
  (∀ blk : Block, decode 0b10#2 blk = .compress blk) ∧
  (∀ (s : State) (p : PortSample) (blk : Block), p.cmd ≠ 0b10#2 → edge { p with blockIn := blk } s = edge p s)

/-- R240, R241: a reset edge, whatever else is driven and whatever is in flight, clears `busy`, `done`, `cmd_err` and
`hdef`, abandons the COMPRESS in flight and accepts no command; the engine is then idle with `cmd_ready = 1`, a second
reset edge leaves the same, and a COMPRESS accepted before an INIT faults. From any state at all it leaves one that
meets the invariant. -/
def Obligations.ResetEdgeClears : Prop :=
  ∀ (s : State) (p : PortSample), p.rst = true → ∃ t, edge p s = .next t ∧
    t.busy = false ∧ t.done = false ∧ t.cmdErr = false ∧ t.hdef = false ∧ t.inflight = none ∧
    t.inputs = s.inputs ∧ cmdReady t = true ∧
    (∃ u, edge p t = .next u ∧ txView u = txView t) ∧
    (∀ blk, exec (.compress blk) t = .fault .uninitialisedDigest) ∧ t.Inv

/-- R36: the state elements the spec gives a reset value have it in State.reset, and `cmd_ready` reads 1. -/
def Obligations.ResetStateValues : Prop :=
  State.reset.busy = false ∧ State.reset.done = false ∧ State.reset.cmdErr = false ∧ State.reset.hdef = false ∧
  State.reset.inflight = none ∧ cmdReady State.reset = true

/-! ### Whole-machine rules of the state bits -/

/-- R25: `busy` after an edge. -/
def Obligations.BusyBitRule : Prop :=
  ∀ (s s' : State) (p : PortSample), edge p s = .next s' →
    (s'.busy = true ↔ p.rst = false ∧
      ((s.busy = true ∧ ∃ f, s.inflight = some f ∧ 1 < f.remaining) ∨
       (s.busy = false ∧ p.cmdValid = true ∧ p.cmd = 0b10#2)))

/-- R27: `done` after an edge: set by an INIT and by the completion of a COMPRESS, cleared by the acceptance of a
COMPRESS and by reset, else kept. -/
def Obligations.DoneBitRule : Prop :=
  ∀ (s s' : State) (p : PortSample), edge p s = .next s' →
    (s'.done = true ↔ p.rst = false ∧
      ((s.busy = true ∧ ∃ f, s.inflight = some f ∧ (f.remaining ≤ 1 ∨ s.done = true)) ∨
       (s.busy = false ∧ p.cmdValid = true ∧ p.cmd = 0b01#2) ∨
       (s.busy = false ∧ s.done = true ∧ ¬(p.cmdValid = true ∧ p.cmd = 0b10#2))))

/-- R28: `cmd_err` after an edge: set by the acceptance of the reserved command, cleared only by reset. -/
def Obligations.CmdErrBitRule : Prop :=
  ∀ (s s' : State) (p : PortSample), edge p s = .next s' →
    (s'.cmdErr = true ↔ p.rst = false ∧
      (s.cmdErr = true ∨ (s.busy = false ∧ p.cmdValid = true ∧ p.cmd = 0b11#2)))

/-- R29: `hdef` after an edge: set by the acceptance of an INIT, cleared by reset, else kept. -/
def Obligations.HdefFlagRule : Prop :=
  ∀ (s s' : State) (p : PortSample), edge p s = .next s' →
    (s'.hdef = true ↔ p.rst = false ∧
      (s.hdef = true ∨ (s.busy = false ∧ p.cmdValid = true ∧ p.cmd = 0b01#2)))

/-- R20, R21, R172: without a reset, DigestState is written only by the acceptance of an INIT, which leaves IV, and by
the completion edge of a COMPRESS, which adds the working registers word by word mod 2^32. -/
def Obligations.DigestStateWrites : Prop :=
  ∀ (s s' : State) (p : PortSample), edge p s = .next s' → p.rst = false →
    (s.busy = false ∧ p.cmdValid = true ∧ p.cmd = 0b01#2 ∧ s'.H = ivRom) ∨
    (s.busy = true ∧ s'.busy = false ∧ s'.H = #v[s.H[0] + s'.work.a, s.H[1] + s'.work.b, s.H[2] + s'.work.c,
      s.H[3] + s'.work.d, s.H[4] + s'.work.e, s.H[5] + s'.work.f, s.H[6] + s'.work.g, s.H[7] + s'.work.h]) ∨
    s'.H = s.H

/-- R26, R34, R50: `cmd_ready` is `not busy`, and the packed status word is `{cmd_err, done, busy}`. -/
def Obligations.StatusPorts : Prop :=
  ∀ s : State, cmdReady s = !s.busy ∧ (statusWord s)[0] = s.busy ∧ (statusWord s)[1] = s.done ∧
    (statusWord s)[2] = s.cmdErr ∧ outputs s = ⟨cmdReady s, s.busy, s.done, s.cmdErr, digestOut s⟩

/-! ### The invariant -/

/-- The invariant (R38, R24, R29, R150 to R152) holds right after reset. Its clauses about a COMPRESS in flight rest on
the model's choices of log 6 and log 7, and hold there because nothing is in flight. -/
def Obligations.InvariantAtReset : Prop := State.reset.Inv

/-- Every step keeps the invariant: `busy = 1` exactly when a COMPRESS is in flight, `busy` and `done` never both 1
(R38), DigestState defined whenever it is used, and the working registers, the schedule and the counter of a COMPRESS
in flight those of its block (R24, R150, R152, R123). Two clauses about a COMPRESS in flight are the model's choice and
no rule's: the counter's range up to 64, where R24 says 0..63 (log 7), and which values `a..h` and `W` hold at each
count, since R104 leaves the schedule of rounds over edges open (log 6). -/
def Obligations.InvariantKeptByStep : Prop :=
  ∀ s s' : State, s.Inv → step s = .next s' → s'.Inv

/-- R220, R221: from a state that meets the invariant a step never refuses, and it faults exactly at the acceptance of
a COMPRESS with `hdef = false`. -/
def Obligations.OnlyUninitialisedCompressFaults : Prop :=
  ∀ s : State, s.Inv → (∀ r, step s ≠ .refused r) ∧
    (∀ r, step s = .fault r ↔ r = .uninitialisedDigest ∧ (nextSample s).rst = false ∧ s.busy = false ∧
      (nextSample s).cmdValid = true ∧ (nextSample s).cmd = 0b10#2 ∧ s.hdef = false)

/-! ### Progress and completion of a COMPRESS -/

/-- R104, R21, R60: an edge of a COMPRESS in flight before its last counts down and shows nothing at any port; the
block in flight, `hdef` and the inputs are kept. -/
def Obligations.ProgressShowsNothing : Prop :=
  ∀ (s : State) (p : PortSample) (f : InFlight), p.rst = false → s.busy = true → s.inflight = some f →
    1 < f.remaining → ∃ t, edge p s = .next t ∧ t.inflight = some ⟨f.blk, f.remaining - 1⟩ ∧
      outputs t = outputs s ∧ t.H = s.H ∧ t.hdef = s.hdef ∧ t.inputs = s.inputs

/-- R104, R172, R174: at its completion edge a COMPRESS leaves `Compress(H, blk)` in DigestState, clears `busy`, sets
`done`, and nothing is in flight; `a..h` keep their last value, that after round 63 (R22); `cmd_err`, `hdef` and the
inputs are kept. The premise is the invariant: a state no run reaches may hold working registers of another block. -/
def Obligations.CompletionWritesCompress : Prop :=
  ∀ (s : State) (p : PortSample) (f : InFlight), s.Inv → p.rst = false → s.inflight = some f → f.remaining = 1 →
    ∃ t, edge p s = .next t ∧ t.H = compress s.H f.blk ∧ t.work = rounds s.H (schedule f.blk) ∧
      t.busy = false ∧ t.done = true ∧ t.inflight = none ∧ t.cmdErr = s.cmdErr ∧ t.hdef = s.hdef ∧
      t.inputs = s.inputs ∧ digestOut t = packDigest (compress s.H f.blk)

/-- R8, R104, R60, R251: for every latency L >= 1 and whatever the host offers meanwhile without a reset, a COMPRESS
accepted with nothing in flight is in flight, with `busy = 1`, `done = 0`, `cmd_err` kept and the old `digest_out`,
after each of the first L - 1 edges, and has completed after exactly L. The model's choices: L is a free draw for each
COMPRESS (log 5), and where fewer than L samples are left in `inputs` the host is idle at the rest (log 1). -/
def Obligations.CompressRunsToCompletion : Prop :=
  ∀ (s : State) (blk : Block), s.Inv → s.busy = false → s.hdef = true →
    (∀ p ∈ s.inputs.take (compressLatency s.draws), p.rst = false) →
    ∃ t u, 1 ≤ compressLatency s.draws ∧ exec (.compress blk) s = .next t ∧
      (∀ k < compressLatency s.draws, ∃ v, runSteps k t = .next v ∧ v.busy = true ∧ v.done = false ∧
        v.cmdErr = s.cmdErr ∧ digestOut v = digestOut s) ∧
      runSteps (compressLatency s.draws) t = .next u ∧ u.H = compress s.H blk ∧ u.busy = false ∧ u.done = true ∧
      u.cmdErr = s.cmdErr ∧ digestOut u = packDigest (compress s.H blk)

/-- R241: a reset edge at any moment of a COMPRESS in flight, its completion edge too, wins: the COMPRESS does not
complete and `done` is not set (R223). -/
def Obligations.ResetAbandonsCompress : Prop :=
  ∀ (s : State) (p : PortSample), s.busy = true → p.rst = true → ∃ t, edge p s = .next t ∧
    t.inflight = none ∧ t.busy = false ∧ t.done = false ∧ t.hdef = false

/-- Hazard H5 (R249): right after the acceptance edge of an INIT its result is on `digest_out` with `done = 1`, and a
COMPRESS is accepted at the very next edge; so is one at the edge after a COMPRESS's completion edge. -/
def Obligations.NoWaitStates : Prop :=
  (∀ (s : State) (blk : Block), s.busy = false →
    ∃ t u, edge (offerSample (encode .init)) s = .next t ∧ digestOut t = packDigest ivRom ∧ t.done = true ∧
      edge (offerSample (encode (.compress blk))) t = .next u ∧ u.busy = true) ∧
  (∀ (s : State) (p : PortSample) (f : InFlight) (blk : Block), s.Inv → p.rst = false → s.inflight = some f →
    f.remaining = 1 → ∃ t u, edge p s = .next t ∧ t.done = true ∧
      edge (offerSample (encode (.compress blk))) t = .next u ∧ u.busy = true)

/-- R107, R175: from any state that meets the invariant, INIT followed by COMPRESS of the blocks in order, WAIT and READ
never stops, reads the chain of the blocks from IV, and leaves it in DigestState, whatever the latencies and whatever
was in flight or chained before. The model's choices: at which edges the script offers and waits, and the empty name of
the reading (log 20). -/
def Obligations.MessageIsChainFromIv : Prop :=
  ∀ (s : State) (blocks : List Block) (rs : List (List Char × DigestBits)), s.Inv →
    ∃ r, runActs (hashActs blocks) ⟨s, rs⟩ = .next r ∧ r.engine.H = compressAll ivRom blocks ∧
      r.readings = rs ++ [([], packDigest (compressAll ivRom blocks))] ∧ r.engine.busy = false ∧
      r.engine.done = true ∧ digestOut r.engine = packDigest (compressAll ivRom blocks) ∧
      r.engine.cmdErr = s.cmdErr ∧ r.engine.Inv

/-- R244: from any state whatever, one reset edge and then INIT, the blocks in order, WAIT and READ, read the chain of
the blocks from IV, with `cmd_err` clear. The edges of the script and the empty name of the reading are the model's
choice (log 20). -/
def Obligations.BootSequenceHashes : Prop :=
  ∀ (s : State) (blocks : List Block) (rs : List (List Char × DigestBits)),
    ∃ r, runActs (.reset :: hashActs blocks) ⟨s, rs⟩ = .next r ∧
      r.readings = rs ++ [([], packDigest (compressAll ivRom blocks))] ∧ r.engine.busy = false ∧
      r.engine.done = true ∧ r.engine.cmdErr = false

/-- R55: sampling `digest_out` changes nothing of the engine at transaction level, and nothing at all but the model's own
counter of draws, which moves only where the value was a draw (log 9, log 12). -/
def Obligations.ReadingChangesNothing : Prop :=
  ∀ (r : HostRun) (name : List Char), ∃ t, runAct (.read name) r = .next t ∧
    t.readings = r.readings ++ [(name, digestOut r.engine)] ∧ txView t.engine = txView r.engine ∧
    { t.engine with draws := r.engine.draws } = r.engine ∧ (r.engine.hdef = true → t.engine = r.engine)

/-- R197, R194: the script line HASH reads a digest whose hex rendering is the source's `digest(input)`, for every
message the host goes on with, and is refused by name for every other. The model's choices: for TRUNC32 and `len >=
2^29` the software digest is that of the spec's own reading of the length field (log 18), and no equality with the
reference software is claimed there (U7, D23); the refusal `messageOutOfRange` (log 19); the empty name of the reading
(log 20). -/
def Obligations.HashLineGivesSoftwareDigest : Prop :=
  ∀ (mode : LenMode) (policy : OverrangePolicy) (m : List Byte) (s : State) (rs : List (List Char × DigestBits)),
    s.Inv →
    (hostAccepts mode policy m.length = true → ∃ r D, runScript mode policy [.hash m] ⟨s, rs⟩ = .next r ∧
      r.readings = rs ++ [([], D)] ∧ softwareDigest mode policy m = some (hexDigest D)) ∧
    (hostAccepts mode policy m.length = false →
      runScript mode policy [.hash m] ⟨s, rs⟩ = .refused .messageOutOfRange)

/-- D39, R37: the cycle-level engine agrees at every edge with the transaction-level engine written from R100 to R105
and R240, the latency of a COMPRESS accepted at that edge being the draw (the model's choice, log 5). -/
def Obligations.TransactionLevelAgreement : Prop :=
  ∀ (s : State) (p : PortSample), s.Inv →
    txOutcome (edge p s) = txEdge (compressLatency s.draws) p (txView s)

/-- U2, R22 to R24, R35: what `a..h`, `W` and `t` hold while nothing is in flight makes no difference at transaction
level, hence at no port, over any run. -/
def Obligations.IdleInternalsUnobservable : Prop :=
  ∀ (s : State) (work : Working) (W : Vector Word 64) (t n : Nat), s.Inv → s.busy = false →
    txOutcome (runSteps n { s with work := work, W := W, t := t }) = txOutcome (runSteps n s)

/-- R66, R230: stepping one of several engines changes no other, and two engines' steps may be taken in either order.
That a fault of one ends the whole run is the model's choice (log 26), and so is taking the engines' edges one at a time
(log 15); nothing is said of whether their unspecified values agree (log 25). -/
def Obligations.InstancesIndependent : Prop :=
  ∀ (es es' : List State) (k j : Nat), stepInstance k es = .next es' → j ≠ k →
    es'[j]? = es[j]? ∧
    (∀ es'', stepInstance j es' = .next es'' → andThen (stepInstance j es) (stepInstance k) = .next es'')

/-! ### Encoding and buses -/

/-- R73, R80: the table's four words decode to the four commands, and `cmd = 10` with the padded block of "abc" is
COMPRESS of that block. That a table word of 2 bits carries the zero block, the bits above `cmd` being 0, is the model's
choice (log 13). -/
def Obligations.TableWordsDecode : Prop :=
  decodeTableWord 2 0b00 = some .nop ∧ decodeTableWord 2 0b01 = some .init ∧
  decodeTableWord 2 0b10 = some (.compress 0) ∧ decodeTableWord 2 0b11 = some .reserved ∧
  decode 0b10#2 (0x61626380#32 ++ 0#472 ++ 0x18#8) = .compress (0x61626380#32 ++ 0#472 ++ 0x18#8)

/-- Decode and encode agree: every command's transaction decodes to it; every transaction decodes to a command with its
code on `cmd` (R75), whose own transaction it is where the command has an operand (R71); a number wider than the two
ports is rejected by name (the packing of the ports is the model's, log 13). -/
def Obligations.DecodeEncodeAgree : Prop :=
  (∀ i : Instr, i.wellFormed = true → decodeWord (encode i).toNat = .ok i) ∧
  (∀ w : Transaction, ∃ i, decodeWord w.toNat = .ok i ∧ opcode i = Transaction.cmd w ∧
    (i.format = .cb → encode i = w)) ∧
  (∀ n : Nat, 2 ^ 514 ≤ n → decodeWord n = .error .widerThanPorts)

/-- R51, R72: on the bus of a block given by its 64 bytes in message order, `block_in[511-8j : 504-8j]` is the `j`-th of
them, and the operand word `block_in[511-32i : 480-32i]` is the big-endian word of bytes `4i..4i+3`. -/
def Obligations.BlockBusLayout : Prop :=
  ∀ (bs : List Byte) (h : bs.length = 64),
    (∀ j : Fin 64, BitVec.extractLsb' (504 - 8 * j.val) 8 (blockOfBytes bs) = bs[j.val]) ∧
    (∀ i : Fin 16, blockWord (blockOfBytes bs) i = BitVec.extractLsb' (480 - 32 * i.val) 32 (blockOfBytes bs) ∧
      blockWord (blockOfBytes bs) i =
        be32 bs[4 * i.val] bs[4 * i.val + 1] bs[4 * i.val + 2] bs[4 * i.val + 3])

/-- R52: `digest_out[255-32i : 224-32i] = H[i]`, and byte `k` of the digest, `digest_out[255-8k : 248-8k]`, is byte
`k mod 4`, from the most significant, of word `k / 4`. -/
def Obligations.DigestBusLayout : Prop :=
  ∀ s : State, s.hdef = true →
    (∀ i : Fin 8, BitVec.extractLsb' (224 - 32 * i.val) 32 (digestOut s) = s.H[i.val]) ∧
    (∀ k : Fin 32, BitVec.extractLsb' (248 - 8 * k.val) 8 (digestOut s) =
      BitVec.extractLsb' (24 - 8 * (k.val % 4)) 8 (s.H[k.val / 4]'(by omega)))

/-! ### The compression function -/

/-- R11: the shift and the rotation in numbers, and the rotation is a rotation of bits. -/
def Obligations.RotationArithmetic : Prop :=
  ∀ (x : Word) (n : Nat), 0 < n → n < 32 →
    (shr x n).toNat = x.toNat / 2 ^ n ∧
    (rotr x n).toNat = x.toNat / 2 ^ n ||| (x.toNat * 2 ^ (32 - n)) % 2 ^ 32 ∧
    (∀ i < 32, (rotr x n).getLsbD i = x.getLsbD ((i + n) % 32))

/-- R120, R121, R142, R143: each bit of the four sigma functions, the shifts bringing in zeros. -/
def Obligations.SigmaBits : Prop :=
  ∀ (x : Word) (i : Nat), i < 32 →
    (smallSigma0 x).getLsbD i = (x.getLsbD ((i + 7) % 32) ^^ x.getLsbD ((i + 18) % 32) ^^ x.getLsbD (i + 3)) ∧
    (smallSigma1 x).getLsbD i = (x.getLsbD ((i + 17) % 32) ^^ x.getLsbD ((i + 19) % 32) ^^ x.getLsbD (i + 10)) ∧
    (bigSigma0 x).getLsbD i =
      (x.getLsbD ((i + 2) % 32) ^^ x.getLsbD ((i + 13) % 32) ^^ x.getLsbD ((i + 22) % 32)) ∧
    (bigSigma1 x).getLsbD i =
      (x.getLsbD ((i + 6) % 32) ^^ x.getLsbD ((i + 11) % 32) ^^ x.getLsbD ((i + 25) % 32))

/-- R120, R121, R142, R143: the four sigma functions are bijections on words. -/
def Obligations.SigmasAreBijections : Prop :=
  Function.Bijective smallSigma0 ∧ Function.Bijective smallSigma1 ∧ Function.Bijective bigSigma0 ∧
  Function.Bijective bigSigma1

/-- R144, R145: Ch takes the bit of `y` where `x` is 1 and of `z` where `x` is 0; Maj takes the majority. -/
def Obligations.ChooseAndMajorityBits : Prop :=
  ∀ (x y z : Word) (i : Nat), i < 32 →
    (ch x y z).getLsbD i = (if x.getLsbD i then y.getLsbD i else z.getLsbD i) ∧
    ((maj x y z).getLsbD i = true ↔
      2 ≤ (x.getLsbD i).toNat + (y.getLsbD i).toNat + (z.getLsbD i).toNat)

/-- R123 (with R122's first 16 words): the schedule of a block: the first 16 words from 4 big-endian bytes each, every later word the sum
of four earlier ones reduced mod 2^32. -/
def Obligations.ScheduleOfBlock : Prop :=
  ∀ blk : Block,
    (∀ (i : Nat) (h : i < 16), (schedule blk)[i] =
      be32 (blockByte blk ⟨4 * i, by omega⟩) (blockByte blk ⟨4 * i + 1, by omega⟩)
        (blockByte blk ⟨4 * i + 2, by omega⟩) (blockByte blk ⟨4 * i + 3, by omega⟩)) ∧
    (∀ (t : Nat) (h : t < 64), 16 ≤ t → (schedule blk)[t].toNat =
      ((smallSigma1 (schedule blk)[t - 2]).toNat + (schedule blk)[t - 7].toNat +
        (smallSigma0 (schedule blk)[t - 15]).toNat + (schedule blk)[t - 16].toNat) % 2 ^ 32)

/-- R146, R147, R151: one round in numbers: the sums reduced mod 2^32, the other registers shifted. -/
def Obligations.RoundStepArithmetic : Prop :=
  ∀ (k w : Word) (r : Working),
    (tempT1 k w r).toNat =
      (r.h.toNat + (bigSigma1 r.e).toNat + (ch r.e r.f r.g).toNat + k.toNat + w.toNat) % 2 ^ 32 ∧
    (tempT2 r).toNat = ((bigSigma0 r.a).toNat + (maj r.a r.b r.c).toNat) % 2 ^ 32 ∧
    (roundStep k w r).a.toNat = ((tempT1 k w r).toNat + (tempT2 r).toNat) % 2 ^ 32 ∧
    (roundStep k w r).e.toNat = (r.d.toNat + (tempT1 k w r).toNat) % 2 ^ 32 ∧
    (roundStep k w r).b = r.a ∧ (roundStep k w r).c = r.b ∧ (roundStep k w r).d = r.c ∧
    (roundStep k w r).f = r.e ∧ (roundStep k w r).g = r.f ∧ (roundStep k w r).h = r.g

/-- R141, R150, R152, R154: for every `n` up to 64, the working registers after `n` rounds are the rounds 0 to `n-1`, in
that order, exactly once each, round `t` reading `K[t]` and `W[t]`; `Rounds(H, W)` is all 64 of them from `a..h = H`. -/
def Obligations.RoundsInOrder : Prop :=
  (∀ (r : Working) (W : Vector Word 64) (n : Nat), n ≤ 64 →
    roundsTo r W n = ((List.finRange 64).take n).foldl (fun q t => roundStep kRom[t.val] W[t.val] q) r) ∧
  (∀ (H : Vector Word 8) (W : Vector Word 64),
    rounds H W = roundsTo ⟨H[0], H[1], H[2], H[3], H[4], H[5], H[6], H[7]⟩ W 64)

/-- R172, R173: the fold adds word by word, each sum reduced mod 2^32. -/
def Obligations.FoldWrapsPerWord : Prop :=
  ∀ (H : Vector Word 8) (r : Working) (i : Nat) (h : i < 8),
    (fold H r)[i].toNat =
      (H[i].toNat + (#v[r.a, r.b, r.c, r.d, r.e, r.f, r.g, r.h])[i].toNat) % 2 ^ 32

/-! ### The host side -/

/-- R191, R193: the padded message is the message, one 0x80 byte, `z` zero bytes with `z` the least number that brings
the length to 56 mod 64, and an 8-byte length field; its length is a multiple of 64, `64 n`, at least `len + 9` and at
most `len + 72`. That the field has 8 bytes where FULL64 cannot encode the length is the model's choice (log 10). -/
def Obligations.PaddingShape : Prop :=
  ∀ (mode : LenMode) (m : List Byte),
    pad mode m = m ++ [0x80#8] ++ List.replicate (zeroCount m.length) 0x00#8 ++ lenField mode m.length ∧
    (m.length + 1 + zeroCount m.length) % 64 = 56 ∧ zeroCount m.length < 64 ∧
    (lenField mode m.length).length = 8 ∧ (pad mode m).length = 64 * blockCount m.length ∧
    m.length + 9 ≤ (pad mode m).length ∧ (pad mode m).length ≤ m.length + 72

/-- R191, R51: block `i` of the padded message carries its bytes `64i..64i+63` in order (those of
the length field beyond FULL64's range: log 10). -/
def Obligations.PaddedBlocksCarryBytes : Prop :=
  ∀ (mode : LenMode) (m : List Byte), (padBlocks mode m).length = blockCount m.length ∧
    ∀ (i : Nat) (hi : i < (padBlocks mode m).length) (j : Fin 64),
      (pad mode m)[64 * i + j.val]? = some (blockByte (padBlocks mode m)[i] j)

/-- R192: the length field is the big-endian bit-length, exact under FULL64 in range and modulo 2^32 under TRUNC32; the
two modes agree exactly when `len < 2^29`. That TRUNC32 leaves the high half zero is the spec's own reading (D23, N7),
which the model follows (log 18). -/
def Obligations.LengthFieldModes : Prop :=
  ∀ len : Nat, 8 * len < 2 ^ 64 →
    (lenField .full64 len).foldl (fun acc b => acc * 256 + b.toNat) 0 = 8 * len ∧
    (lenField .trunc32 len).foldl (fun acc b => acc * 256 + b.toNat) 0 = 8 * len % 2 ^ 32 ∧
    (lenField .full64 len = lenField .trunc32 len ↔ len < 2 ^ 29)

/-- R196: the rendering has 64 characters, all of the lowercase alphabet, two to a byte, high nibble first, and no two
digests share one. -/
def Obligations.HexRendering : Prop :=
  (∀ D : DigestBits, (hexDigest D).length = 64 ∧ (∀ c ∈ hexDigest D, c ∈ hexAlphabet) ∧
    ∀ k : Fin 32,
      (hexDigest D)[2 * k.val]? = some (hexChar (D.extractLsb' (252 - 8 * k.val) 4)) ∧
      (hexDigest D)[2 * k.val + 1]? = some (hexChar (D.extractLsb' (248 - 8 * k.val) 4))) ∧
  (∀ D E : DigestBits, hexDigest D = hexDigest E → D = E)
end

