-- ==== Sys2Proof/Laws/Decode.lean ====
section
/-! SUPPORT. The decoder and the encoder, field by field (30_encoding R70 to R73). -/

namespace Sys2Proof

/-- Bit `i` of a transaction: below bit 2 it is `cmd`'s, above it is `block_in`'s. -/
theorem transaction_bit (blk : Block) (c : Cmd) (i : Nat) :
    BitVec.getLsbD (w := 514) (blk ++ c) i = if i < 2 then c.getLsbD i else blk.getLsbD (i - 2) :=
  (BitVec.getLsbD_append (x := blk) (y := c) (i := i)).trans (by by_cases h : i < 2 <;> simp [h])

/-- The field `cmd`, as bits. -/
theorem Transaction.cmd_eq_extract (w : Transaction) : Transaction.cmd w = w.extractLsb' 0 2 := by
  refine BitVec.eq_of_getLsbD_eq fun i hi => ?_
  simp [Transaction.cmd, wordCmd, hi]

/-- The field `block_in`, as bits. -/
theorem Transaction.blockIn_eq_extract (w : Transaction) : Transaction.blockIn w = w.extractLsb' 2 512 := rfl

/-- The code on `cmd` is the low end of the transaction. -/
@[simp] theorem cmd_append (blk : Block) (c : Cmd) : Transaction.cmd (blk ++ c) = c := by
  refine BitVec.eq_of_getLsbD_eq fun i hi => ?_
  simp only [Transaction.cmd_eq_extract, BitVec.getLsbD_extractLsb', Nat.zero_add]
  rw [transaction_bit]
  simp [hi]

/-- The block is what stands above it. -/
@[simp] theorem blockIn_append (blk : Block) (c : Cmd) : Transaction.blockIn (blk ++ c) = blk := by
  refine BitVec.eq_of_getLsbD_eq fun i hi => ?_
  simp only [Transaction.blockIn_eq_extract, BitVec.getLsbD_extractLsb']
  rw [transaction_bit, if_neg (by omega), Nat.add_sub_cancel_left]
  simp [hi]

/-- A number the two ports can carry. -/
theorem decodeWord_of_toNat (w : Transaction) :
    decodeWord w.toNat = .ok (decode (Transaction.cmd w) (Transaction.blockIn w)) := by
  rw [decodeWord, if_pos]
  · rfl
  · rw [Nat.shiftRight_eq_div_pow]; exact Nat.div_eq_of_lt w.isLt

/-- The two fields of a transaction are all of it. -/
theorem blockIn_append_cmd (w : Transaction) : (Transaction.blockIn w ++ Transaction.cmd w : BitVec 514) = w := by
  refine BitVec.eq_of_getLsbD_eq fun i hi => ?_
  rw [transaction_bit]
  by_cases h : i < 2
  · simp [Transaction.cmd_eq_extract, h]
  · simp [Transaction.blockIn_eq_extract, h, show i - 2 < 512 by omega, show 2 + (i - 2) = i by omega]

end Sys2Proof
end

