-- ==== Sys2Proof/Laws/Schedule.lean ====
section
/-! SUPPORT. What the expander and the round loop do, one lemma each (42_schedule R122, R123; 43_rounds R151, R152). -/

namespace Sys2Proof.Machine

/-- The first 16 words after a schedule load are the block's (R122). -/
theorem loadWords_block (blk : Block) (W : Vector Word 64) (i : Nat) (h : i < 16) :
    (loadWords blk W)[i] = blockWord blk ⟨i, h⟩ := by
  simp [loadWords, h]

/-- A schedule load leaves the other words alone (R122). -/
theorem loadWords_rest (blk : Block) (W : Vector Word 64) (i : Nat) (h : i < 64) (h16 : 16 ≤ i) :
    (loadWords blk W)[i] = W[i] := by
  simp [loadWords, Nat.not_lt.mpr h16]

/-- One step of the expander changes no word but its own. -/
theorem expandAt_other (t : Fin 64) (W : Vector Word 64) (j : Nat) (hj : j < 64) (hne : t.val ≠ j) :
    (expandAt t W)[j] = W[j] := by
  unfold expandAt
  split
  · exact Vector.getElem_set_ne t.isLt hj hne
  · rfl

/-- The word one step of the expander makes (R123). -/
theorem expandAt_self (t : Fin 64) (W : Vector Word 64) (h16 : 16 ≤ t.val) :
    (expandAt t W)[t.val] = nextWord W t := by
  simp [expandAt, h16]

theorem expandTo_succ (W : Vector Word 64) (n : Nat) (h : n < 64) :
    expandTo W (n + 1) = expandAt ⟨n, h⟩ (expandTo W n) := by
  simp [expandTo, h]

/-- The expander has not touched a word it has not come to. -/
theorem expandTo_untouched (W : Vector Word 64) (n j : Nat) (hj : j < 64) (hnj : n ≤ j) :
    (expandTo W n)[j] = W[j] := by
  induction n with
  | zero => rfl
  | succ n ih => rw [expandTo_succ W n (by omega), expandAt_other _ _ _ _ (by simp; omega), ih (by omega)]

/-- A word, once made, stays. -/
theorem expandTo_settled (W : Vector Word 64) (j n : Nat) (hj : j < 64) (hjn : j < n) (hn : n ≤ 64) :
    (expandTo W n)[j] = (expandTo W (j + 1))[j] := by
  induction n with
  | zero => omega
  | succ n ih =>
    by_cases hj' : j = n
    · subst hj'; rfl
    · rw [expandTo_succ W n (by omega), expandAt_other _ _ _ _ (by simp; omega), ih (by omega) (by omega)]

/-- `nextWord` reads only the words before `t`. -/
theorem nextWord_congr (V W : Vector Word 64) (t : Fin 64) (h16 : 16 ≤ t.val)
    (h : ∀ (j : Nat) (hj : j < 64), j < t.val → V[j] = W[j]) : nextWord V t = nextWord W t := by
  simp only [nextWord]
  rw [h (t.val - 2) (by omega) (by omega), h (t.val - 7) (by omega) (by omega), h (t.val - 15) (by omega) (by omega),
    h (t.val - 16) (by omega) (by omega)]

/-- The first 16 words of the finished schedule are the loaded ones. -/
theorem expandTo_loaded (W : Vector Word 64) (j n : Nat) (hj : j < 16) :
    (expandTo W n)[j] = W[j] := by
  induction n with
  | zero => rfl
  | succ n ih =>
    unfold expandTo
    split
    · rw [← ih]
      unfold expandAt
      split
      · rename_i h16
        exact Vector.getElem_set_ne _ _ (by simp at h16 ⊢; omega)
      · rfl
    · exact ih

/-- A word of the finished schedule from those before it. -/
theorem expandTo_next (W : Vector Word 64) (t : Fin 64) (h16 : 16 ≤ t.val) :
    (expandTo W 64)[t.val] = nextWord (expandTo W 64) t := by
  rw [expandTo_settled W t.val 64 t.isLt t.isLt (by omega), expandTo_succ W t.val t.isLt, expandAt_self _ _ h16]
  refine nextWord_congr _ _ t h16 fun j hj hjt => ?_
  rw [expandTo_settled W j 64 hj hj (by omega), ← expandTo_settled W j t.val hj hjt (by omega)]

/-- One step of the expander on words that agree with the finished schedule as far as they go makes the next word agree
too. -/
theorem expandAt_agrees (V S : Vector Word 64) (t : Fin 64)
    (hS : ∀ u : Fin 64, 16 ≤ u.val → S[u.val] = nextWord S u)
    (hV : ∀ (j : Nat) (hj : j < 64), j < max 16 t.val → V[j] = S[j]) :
    ∀ (j : Nat) (hj : j < 64), j < max 16 (t.val + 1) → (expandAt t V)[j] = S[j] := by
  intro j hj hlt
  by_cases htj : t.val = j
  · subst htj
    by_cases h16 : 16 ≤ t.val
    · rw [expandAt_self t V h16, hS t h16]
      exact nextWord_congr V S t h16 fun i hi hit => hV i hi (by omega)
    · rw [expandAt, if_neg h16]; exact hV _ hj (by omega)
  · rw [expandAt_other t V j hj htj]; exact hV j hj (by omega)

theorem roundsTo_succ (r : Working) (W : Vector Word 64) (n : Nat) (h : n < 64) :
    roundsTo r W (n + 1) = roundStep kRom[n] W[n] (roundsTo r W n) := by
  simp [roundsTo, h]

end Sys2Proof.Machine
end

