-- ==== Sys2Proof/Laws/State.lean ====
section
/-! SUPPORT. One lemma per field of State and update: what each named operation leaves in each field. -/

namespace Sys2Proof.Machine

variable (s : State)

/-! ### `loadIv` -/

@[simp] theorem loadIv_H : (loadIv s).H = ivRom := by cases s; rfl
@[simp] theorem loadIv_work : (loadIv s).work = s.work := by cases s; rfl
@[simp] theorem loadIv_W : (loadIv s).W = s.W := by cases s; rfl
@[simp] theorem loadIv_t : (loadIv s).t = s.t := by cases s; rfl
@[simp] theorem loadIv_busy : (loadIv s).busy = s.busy := by cases s; rfl
@[simp] theorem loadIv_done : (loadIv s).done = s.done := by cases s; rfl
@[simp] theorem loadIv_cmdErr : (loadIv s).cmdErr = s.cmdErr := by cases s; rfl
@[simp] theorem loadIv_hdef : (loadIv s).hdef = true := by cases s; rfl
@[simp] theorem loadIv_inflight : (loadIv s).inflight = s.inflight := by cases s; rfl
@[simp] theorem loadIv_draws : (loadIv s).draws = s.draws := by cases s; rfl
@[simp] theorem loadIv_inputs : (loadIv s).inputs = s.inputs := by cases s; rfl

/-! ### `setDone` -/

@[simp] theorem setDone_H : (setDone s).H = s.H := by cases s; rfl
@[simp] theorem setDone_work : (setDone s).work = s.work := by cases s; rfl
@[simp] theorem setDone_W : (setDone s).W = s.W := by cases s; rfl
@[simp] theorem setDone_t : (setDone s).t = s.t := by cases s; rfl
@[simp] theorem setDone_busy : (setDone s).busy = s.busy := by cases s; rfl
@[simp] theorem setDone_done : (setDone s).done = true := by cases s; rfl
@[simp] theorem setDone_cmdErr : (setDone s).cmdErr = s.cmdErr := by cases s; rfl
@[simp] theorem setDone_hdef : (setDone s).hdef = s.hdef := by cases s; rfl
@[simp] theorem setDone_inflight : (setDone s).inflight = s.inflight := by cases s; rfl
@[simp] theorem setDone_draws : (setDone s).draws = s.draws := by cases s; rfl
@[simp] theorem setDone_inputs : (setDone s).inputs = s.inputs := by cases s; rfl

/-! ### `latchCmdErr` -/

@[simp] theorem latchCmdErr_H : (latchCmdErr s).H = s.H := by cases s; rfl
@[simp] theorem latchCmdErr_work : (latchCmdErr s).work = s.work := by cases s; rfl
@[simp] theorem latchCmdErr_W : (latchCmdErr s).W = s.W := by cases s; rfl
@[simp] theorem latchCmdErr_t : (latchCmdErr s).t = s.t := by cases s; rfl
@[simp] theorem latchCmdErr_busy : (latchCmdErr s).busy = s.busy := by cases s; rfl
@[simp] theorem latchCmdErr_done : (latchCmdErr s).done = s.done := by cases s; rfl
@[simp] theorem latchCmdErr_cmdErr : (latchCmdErr s).cmdErr = true := by cases s; rfl
@[simp] theorem latchCmdErr_hdef : (latchCmdErr s).hdef = s.hdef := by cases s; rfl
@[simp] theorem latchCmdErr_inflight : (latchCmdErr s).inflight = s.inflight := by cases s; rfl
@[simp] theorem latchCmdErr_draws : (latchCmdErr s).draws = s.draws := by cases s; rfl
@[simp] theorem latchCmdErr_inputs : (latchCmdErr s).inputs = s.inputs := by cases s; rfl

/-! ### `loadSchedule` -/

@[simp] theorem loadSchedule_H (blk : Block) : (loadSchedule blk s).H = s.H := by cases s; rfl
@[simp] theorem loadSchedule_work (blk : Block) : (loadSchedule blk s).work = s.work := by cases s; rfl
@[simp] theorem loadSchedule_W (blk : Block) : (loadSchedule blk s).W = loadWords blk s.W := by cases s; rfl
@[simp] theorem loadSchedule_t (blk : Block) : (loadSchedule blk s).t = s.t := by cases s; rfl
@[simp] theorem loadSchedule_busy (blk : Block) : (loadSchedule blk s).busy = s.busy := by cases s; rfl
@[simp] theorem loadSchedule_done (blk : Block) : (loadSchedule blk s).done = s.done := by cases s; rfl
@[simp] theorem loadSchedule_cmdErr (blk : Block) : (loadSchedule blk s).cmdErr = s.cmdErr := by cases s; rfl
@[simp] theorem loadSchedule_hdef (blk : Block) : (loadSchedule blk s).hdef = s.hdef := by cases s; rfl
@[simp] theorem loadSchedule_inflight (blk : Block) : (loadSchedule blk s).inflight = s.inflight := by cases s; rfl
@[simp] theorem loadSchedule_draws (blk : Block) : (loadSchedule blk s).draws = s.draws := by cases s; rfl
@[simp] theorem loadSchedule_inputs (blk : Block) : (loadSchedule blk s).inputs = s.inputs := by cases s; rfl

/-! ### `loadWorking` -/

@[simp] theorem loadWorking_H : (loadWorking s).H = s.H := by cases s; rfl
@[simp] theorem loadWorking_work : (loadWorking s).work = workOfDigest s.H := by cases s; rfl
@[simp] theorem loadWorking_W : (loadWorking s).W = s.W := by cases s; rfl
@[simp] theorem loadWorking_t : (loadWorking s).t = 0 := by cases s; rfl
@[simp] theorem loadWorking_busy : (loadWorking s).busy = s.busy := by cases s; rfl
@[simp] theorem loadWorking_done : (loadWorking s).done = s.done := by cases s; rfl
@[simp] theorem loadWorking_cmdErr : (loadWorking s).cmdErr = s.cmdErr := by cases s; rfl
@[simp] theorem loadWorking_hdef : (loadWorking s).hdef = s.hdef := by cases s; rfl
@[simp] theorem loadWorking_inflight : (loadWorking s).inflight = s.inflight := by cases s; rfl
@[simp] theorem loadWorking_draws : (loadWorking s).draws = s.draws := by cases s; rfl
@[simp] theorem loadWorking_inputs : (loadWorking s).inputs = s.inputs := by cases s; rfl

/-! ### `launch` -/

@[simp] theorem launch_H (blk : Block) : (launch blk s).H = s.H := by cases s; rfl
@[simp] theorem launch_work (blk : Block) : (launch blk s).work = s.work := by cases s; rfl
@[simp] theorem launch_W (blk : Block) : (launch blk s).W = s.W := by cases s; rfl
@[simp] theorem launch_t (blk : Block) : (launch blk s).t = s.t := by cases s; rfl
@[simp] theorem launch_busy (blk : Block) : (launch blk s).busy = true := by cases s; rfl
@[simp] theorem launch_done (blk : Block) : (launch blk s).done = false := by cases s; rfl
@[simp] theorem launch_cmdErr (blk : Block) : (launch blk s).cmdErr = s.cmdErr := by cases s; rfl
@[simp] theorem launch_hdef (blk : Block) : (launch blk s).hdef = s.hdef := by cases s; rfl
@[simp] theorem launch_inflight (blk : Block) : (launch blk s).inflight = some ⟨blk, compressLatency s.draws⟩ := by cases s; rfl
@[simp] theorem launch_draws (blk : Block) : (launch blk s).draws = s.draws + 1 := by cases s; rfl
@[simp] theorem launch_inputs (blk : Block) : (launch blk s).inputs = s.inputs := by cases s; rfl

/-! ### `countDown` -/

@[simp] theorem countDown_H : (countDown s).H = s.H := by cases s; rfl
@[simp] theorem countDown_work : (countDown s).work = s.work := by cases s; rfl
@[simp] theorem countDown_W : (countDown s).W = s.W := by cases s; rfl
@[simp] theorem countDown_t : (countDown s).t = s.t := by cases s; rfl
@[simp] theorem countDown_busy : (countDown s).busy = s.busy := by cases s; rfl
@[simp] theorem countDown_done : (countDown s).done = s.done := by cases s; rfl
@[simp] theorem countDown_cmdErr : (countDown s).cmdErr = s.cmdErr := by cases s; rfl
@[simp] theorem countDown_hdef : (countDown s).hdef = s.hdef := by cases s; rfl
@[simp] theorem countDown_inflight :
    (countDown s).inflight = s.inflight.map fun f => { f with remaining := f.remaining - 1 } := by cases s; rfl
@[simp] theorem countDown_draws : (countDown s).draws = s.draws := by cases s; rfl
@[simp] theorem countDown_inputs : (countDown s).inputs = s.inputs := by cases s; rfl

/-! ### `foldBack` -/

@[simp] theorem foldBack_H : (foldBack s).H = fold s.H s.work := by cases s; rfl
@[simp] theorem foldBack_work : (foldBack s).work = s.work := by cases s; rfl
@[simp] theorem foldBack_W : (foldBack s).W = s.W := by cases s; rfl
@[simp] theorem foldBack_t : (foldBack s).t = s.t := by cases s; rfl
@[simp] theorem foldBack_busy : (foldBack s).busy = s.busy := by cases s; rfl
@[simp] theorem foldBack_done : (foldBack s).done = s.done := by cases s; rfl
@[simp] theorem foldBack_cmdErr : (foldBack s).cmdErr = s.cmdErr := by cases s; rfl
@[simp] theorem foldBack_hdef : (foldBack s).hdef = s.hdef := by cases s; rfl
@[simp] theorem foldBack_inflight : (foldBack s).inflight = s.inflight := by cases s; rfl
@[simp] theorem foldBack_draws : (foldBack s).draws = s.draws := by cases s; rfl
@[simp] theorem foldBack_inputs : (foldBack s).inputs = s.inputs := by cases s; rfl

/-! ### `retire` -/

@[simp] theorem retire_H : (retire s).H = s.H := by cases s; rfl
@[simp] theorem retire_work : (retire s).work = s.work := by cases s; rfl
@[simp] theorem retire_W : (retire s).W = Vector.ofFn fun i => Config.freeWord s.draws (16 + i.val) := by cases s; rfl
@[simp] theorem retire_t : (retire s).t = (Config.freeRound s.draws).val := by cases s; rfl
@[simp] theorem retire_busy : (retire s).busy = false := by cases s; rfl
@[simp] theorem retire_done : (retire s).done = true := by cases s; rfl
@[simp] theorem retire_cmdErr : (retire s).cmdErr = s.cmdErr := by cases s; rfl
@[simp] theorem retire_hdef : (retire s).hdef = s.hdef := by cases s; rfl
@[simp] theorem retire_inflight : (retire s).inflight = none := by cases s; rfl
@[simp] theorem retire_draws : (retire s).draws = s.draws + 1 := by cases s; rfl
@[simp] theorem retire_inputs : (retire s).inputs = s.inputs := by cases s; rfl

/-! ### `scramble` -/

@[simp] theorem scramble_H : (scramble s).H = Vector.ofFn fun i => Config.freeWord s.draws i.val := by cases s; rfl
@[simp] theorem scramble_work :
    (scramble s).work = workOfDigest (Vector.ofFn fun i => Config.freeWord s.draws (8 + i.val)) := by cases s; rfl
@[simp] theorem scramble_W : (scramble s).W = Vector.ofFn fun i => Config.freeWord s.draws (16 + i.val) := by cases s; rfl
@[simp] theorem scramble_t : (scramble s).t = (Config.freeRound s.draws).val := by cases s; rfl
@[simp] theorem scramble_busy : (scramble s).busy = s.busy := by cases s; rfl
@[simp] theorem scramble_done : (scramble s).done = s.done := by cases s; rfl
@[simp] theorem scramble_cmdErr : (scramble s).cmdErr = s.cmdErr := by cases s; rfl
@[simp] theorem scramble_hdef : (scramble s).hdef = s.hdef := by cases s; rfl
@[simp] theorem scramble_inflight : (scramble s).inflight = s.inflight := by cases s; rfl
@[simp] theorem scramble_draws : (scramble s).draws = s.draws + 1 := by cases s; rfl
@[simp] theorem scramble_inputs : (scramble s).inputs = s.inputs := by cases s; rfl

/-! ### `clearStatus` -/

@[simp] theorem clearStatus_H : (clearStatus s).H = s.H := by cases s; rfl
@[simp] theorem clearStatus_work : (clearStatus s).work = s.work := by cases s; rfl
@[simp] theorem clearStatus_W : (clearStatus s).W = s.W := by cases s; rfl
@[simp] theorem clearStatus_t : (clearStatus s).t = s.t := by cases s; rfl
@[simp] theorem clearStatus_busy : (clearStatus s).busy = false := by cases s; rfl
@[simp] theorem clearStatus_done : (clearStatus s).done = false := by cases s; rfl
@[simp] theorem clearStatus_cmdErr : (clearStatus s).cmdErr = false := by cases s; rfl
@[simp] theorem clearStatus_hdef : (clearStatus s).hdef = false := by cases s; rfl
@[simp] theorem clearStatus_inflight : (clearStatus s).inflight = none := by cases s; rfl
@[simp] theorem clearStatus_draws : (clearStatus s).draws = s.draws := by cases s; rfl
@[simp] theorem clearStatus_inputs : (clearStatus s).inputs = s.inputs := by cases s; rfl

/-! ### `dropSample` -/

@[simp] theorem dropSample_H : (dropSample s).H = s.H := by cases s; rfl
@[simp] theorem dropSample_work : (dropSample s).work = s.work := by cases s; rfl
@[simp] theorem dropSample_W : (dropSample s).W = s.W := by cases s; rfl
@[simp] theorem dropSample_t : (dropSample s).t = s.t := by cases s; rfl
@[simp] theorem dropSample_busy : (dropSample s).busy = s.busy := by cases s; rfl
@[simp] theorem dropSample_done : (dropSample s).done = s.done := by cases s; rfl
@[simp] theorem dropSample_cmdErr : (dropSample s).cmdErr = s.cmdErr := by cases s; rfl
@[simp] theorem dropSample_hdef : (dropSample s).hdef = s.hdef := by cases s; rfl
@[simp] theorem dropSample_inflight : (dropSample s).inflight = s.inflight := by cases s; rfl
@[simp] theorem dropSample_draws : (dropSample s).draws = s.draws := by cases s; rfl
@[simp] theorem dropSample_inputs : (dropSample s).inputs = s.inputs.tail := by cases s; rfl

/-! ### `offerNext` -/

@[simp] theorem offerNext_H (p : PortSample) : (offerNext p s).H = s.H := by cases s; rfl
@[simp] theorem offerNext_work (p : PortSample) : (offerNext p s).work = s.work := by cases s; rfl
@[simp] theorem offerNext_W (p : PortSample) : (offerNext p s).W = s.W := by cases s; rfl
@[simp] theorem offerNext_t (p : PortSample) : (offerNext p s).t = s.t := by cases s; rfl
@[simp] theorem offerNext_busy (p : PortSample) : (offerNext p s).busy = s.busy := by cases s; rfl
@[simp] theorem offerNext_done (p : PortSample) : (offerNext p s).done = s.done := by cases s; rfl
@[simp] theorem offerNext_cmdErr (p : PortSample) : (offerNext p s).cmdErr = s.cmdErr := by cases s; rfl
@[simp] theorem offerNext_hdef (p : PortSample) : (offerNext p s).hdef = s.hdef := by cases s; rfl
@[simp] theorem offerNext_inflight (p : PortSample) : (offerNext p s).inflight = s.inflight := by cases s; rfl
@[simp] theorem offerNext_draws (p : PortSample) : (offerNext p s).draws = s.draws := by cases s; rfl
@[simp] theorem offerNext_inputs (p : PortSample) : (offerNext p s).inputs = p :: s.inputs := by cases s; rfl

end Sys2Proof.Machine
end

