-- ==== Sys2Proof/Laws/Ops.lean ====
section
/-! SUPPORT. What each shared operation can do, said once: rounds, progress, the edge, runs of edges. -/

namespace Sys2Proof.Machine

/-! ### Rounds -/

/-- A round edge before the last round is over (R123, R151). -/
theorem roundEdge_of_lt (s : State) (h : s.t < 64) :
    roundEdge s =
      { s with
        W := expandAt ⟨s.t, h⟩ s.W
        work := roundStep kRom[s.t] (expandAt ⟨s.t, h⟩ s.W)[s.t] s.work
        t := s.t + 1 } := by
  simp [roundEdge, h]

/-- After round 63 there is no round (R24). -/
theorem roundEdge_of_ge (s : State) (h : 64 ≤ s.t) : roundEdge s = s := by
  simp [roundEdge, Nat.not_lt.mpr h]

/-- The frame of a round edge: everything but `a..h`, `W` and `t`. -/
theorem roundEdge_frame (s : State) :
    (roundEdge s).H = s.H ∧ (roundEdge s).busy = s.busy ∧ (roundEdge s).done = s.done ∧
    (roundEdge s).cmdErr = s.cmdErr ∧ (roundEdge s).hdef = s.hdef ∧ (roundEdge s).inflight = s.inflight ∧
    (roundEdge s).draws = s.draws ∧ (roundEdge s).inputs = s.inputs := by
  by_cases h : s.t < 64
  · simp [roundEdge_of_lt s h]
  · simp [roundEdge_of_ge s (by omega)]

@[simp] theorem roundEdge_H (s : State) : (roundEdge s).H = s.H := (roundEdge_frame s).1
@[simp] theorem roundEdge_busy (s : State) : (roundEdge s).busy = s.busy := (roundEdge_frame s).2.1
@[simp] theorem roundEdge_done (s : State) : (roundEdge s).done = s.done := (roundEdge_frame s).2.2.1
@[simp] theorem roundEdge_cmdErr (s : State) : (roundEdge s).cmdErr = s.cmdErr := (roundEdge_frame s).2.2.2.1
@[simp] theorem roundEdge_hdef (s : State) : (roundEdge s).hdef = s.hdef := (roundEdge_frame s).2.2.2.2.1
@[simp] theorem roundEdge_inflight (s : State) : (roundEdge s).inflight = s.inflight :=
  (roundEdge_frame s).2.2.2.2.2.1
@[simp] theorem roundEdge_draws (s : State) : (roundEdge s).draws = s.draws := (roundEdge_frame s).2.2.2.2.2.2.1
@[simp] theorem roundEdge_inputs (s : State) : (roundEdge s).inputs = s.inputs := (roundEdge_frame s).2.2.2.2.2.2.2

/-- The frame of any number of rounds. -/
theorem roundEdges_frame (n : Nat) (s : State) :
    (roundEdges n s).H = s.H ∧ (roundEdges n s).busy = s.busy ∧ (roundEdges n s).done = s.done ∧
    (roundEdges n s).cmdErr = s.cmdErr ∧ (roundEdges n s).hdef = s.hdef ∧
    (roundEdges n s).inflight = s.inflight ∧ (roundEdges n s).draws = s.draws ∧
    (roundEdges n s).inputs = s.inputs := by
  induction n generalizing s with
  | zero => simp [roundEdges]
  | succ n ih => simpa [roundEdges] using ih (roundEdge s)

@[simp] theorem finishRounds_H (s : State) : (finishRounds s).H = s.H := (roundEdges_frame _ s).1
@[simp] theorem finishRounds_busy (s : State) : (finishRounds s).busy = s.busy := (roundEdges_frame _ s).2.1
@[simp] theorem finishRounds_done (s : State) : (finishRounds s).done = s.done := (roundEdges_frame _ s).2.2.1
@[simp] theorem finishRounds_cmdErr (s : State) : (finishRounds s).cmdErr = s.cmdErr :=
  (roundEdges_frame _ s).2.2.2.1
@[simp] theorem finishRounds_hdef (s : State) : (finishRounds s).hdef = s.hdef := (roundEdges_frame _ s).2.2.2.2.1
@[simp] theorem finishRounds_inflight (s : State) : (finishRounds s).inflight = s.inflight :=
  (roundEdges_frame _ s).2.2.2.2.2.1
@[simp] theorem finishRounds_draws (s : State) : (finishRounds s).draws = s.draws :=
  (roundEdges_frame _ s).2.2.2.2.2.2.1
@[simp] theorem finishRounds_inputs (s : State) : (finishRounds s).inputs = s.inputs :=
  (roundEdges_frame _ s).2.2.2.2.2.2.2

/-- The counter after a round edge. -/
theorem roundEdge_t (s : State) : (roundEdge s).t = if s.t < 64 then s.t + 1 else s.t := by
  by_cases h : s.t < 64 <;> simp [roundEdge, h]

/-! ### Progress, the commands and the edge -/

/-- Everything an edge of a COMPRESS in flight can do (R104). -/
theorem progress_cases {s s' : State} (h : progress s = .next s') :
    ∃ f, s.inflight = some f ∧
      ((1 < f.remaining ∧ s' = countDown (roundEdge s)) ∨ (f.remaining ≤ 1 ∧ s' = completeCompress s)) := by
  unfold progress at h
  cases hf : s.inflight with
  | none => simp [hf] at h
  | some f =>
    by_cases hn : 1 < f.remaining
    · simp only [hf, if_pos hn, Host.Outcome.next.injEq] at h
      exact ⟨f, rfl, .inl ⟨hn, h.symm⟩⟩
    · simp only [hf, if_neg hn, Host.Outcome.next.injEq] at h
      exact ⟨f, rfl, .inr ⟨by omega, h.symm⟩⟩

/-- Everything the acceptance of a command can do (R101, R102, R103, R105). -/
theorem exec_cases {i : Instr} {s s' : State} (h : exec i s = .next s') :
    (i = .nop ∧ s' = s) ∨ (i = .init ∧ s' = setDone (loadIv s)) ∨
    (∃ blk, i = .compress blk ∧ s.hdef = true ∧ s' = launch blk (loadWorking (loadSchedule blk s))) ∨
    (i = .reserved ∧ s' = latchCmdErr s) := by
  cases i with
  | nop => exact .inl ⟨rfl, (Host.Outcome.next.inj h).symm⟩
  | init => exact .inr (.inl ⟨rfl, (Host.Outcome.next.inj h).symm⟩)
  | compress blk =>
    by_cases hd : s.hdef = true
    · simp only [exec, execCompress, if_pos hd, Host.Outcome.next.injEq] at h
      exact .inr (.inr (.inl ⟨blk, rfl, hd, h.symm⟩))
    · simp [exec, execCompress, hd] at h
  | reserved => exact .inr (.inr (.inr ⟨rfl, (Host.Outcome.next.inj h).symm⟩))

/-- Everything one rising edge can do (R100): each case with the guard that leads to it. -/
theorem edge_cases {p : PortSample} {s s' : State} (h : edge p s = .next s') :
    (p.rst = true ∧ s' = resetEdge s) ∨
    (p.rst = false ∧ s.busy = true ∧ progress s = .next s') ∨
    (p.rst = false ∧ s.busy = false ∧ p.cmdValid = true ∧ exec (decode p.cmd p.blockIn) s = .next s') ∨
    (p.rst = false ∧ s.busy = false ∧ p.cmdValid = false ∧ s' = s) := by
  unfold edge at h
  cases hr : p.rst with
  | true => simp only [hr, if_true, Host.Outcome.next.injEq] at h; exact .inl ⟨rfl, h.symm⟩
  | false =>
    cases hb : s.busy with
    | true => simp only [hr, hb] at h; exact .inr (.inl ⟨rfl, rfl, by simpa using h⟩)
    | false =>
      cases hv : p.cmdValid with
      | true => simp only [hr, hb, hv] at h; exact .inr (.inr (.inl ⟨rfl, rfl, rfl, by simpa using h⟩))
      | false =>
        simp only [hr, hb, hv] at h
        exact .inr (.inr (.inr ⟨rfl, rfl, rfl, by simpa using h.symm⟩))

/-! ### Runs of edges -/

/-- `andThen` answers a next state only through one (R78). -/
theorem andThen_next {α β : Type} {x : Host.Outcome α Fault Refusal} {k : α → Host.Outcome β Fault Refusal} {b : β}
    (h : andThen x k = .next b) : ∃ a, x = .next a ∧ k a = .next b := by
  cases x with
  | next a => exact ⟨a, rfl, h⟩
  | fault r => simp [andThen] at h
  | refused r => simp [andThen] at h

@[simp] theorem andThen_of_next {α β : Type} (a : α) (k : α → Host.Outcome β Fault Refusal) :
    andThen (.next a) k = k a := rfl

/-- Runs of edges under one sample follow one another. -/
theorem driveEdges_add (p : PortSample) (m n : Nat) (s : State) :
    driveEdges p (m + n) s = andThen (driveEdges p m s) (driveEdges p n) := by
  induction m generalizing s with
  | zero => simp [driveEdges]
  | succ m ih =>
    rw [Nat.succ_add]
    simp only [driveEdges]
    cases edge p s with
    | next s' => simpa using ih s'
    | fault r => rfl
    | refused r => rfl

end Sys2Proof.Machine
end

