-- ==== Sys2Proof/Laws/Flight.lean ====
section
/-! SUPPORT. The COMPRESS in flight: what its acceptance establishes, what every round keeps, and what is there when all
rounds have run (41_commands R103, R104; 43_rounds R150 to R154). -/

namespace Sys2Proof.Machine

/-- The first 16 words of the schedule are the block's (R122). -/
theorem schedule_block (blk : Block) (i : Nat) (h : i < 16) : (schedule blk)[i] = blockWord blk ⟨i, h⟩ := by
  unfold schedule
  rw [expandTo_loaded _ _ _ h, loadWords_block _ _ _ h]

/-- Every later word of the schedule comes from those before it (R123). -/
theorem schedule_next (blk : Block) (t : Fin 64) (h16 : 16 ≤ t.val) :
    (schedule blk)[t.val] = nextWord (schedule blk) t :=
  expandTo_next _ t h16

/-- The acceptance of a COMPRESS leaves a coherent flight (R103, R122, R150). -/
theorem launch_coherent (blk : Block) (s : State) :
    FlightCoherent (launch blk (loadWorking (loadSchedule blk s))) ⟨blk, compressLatency s.draws⟩ where
  edge_left := by simp [compressLatency]
  round_range := by simp
  working := by simp [roundsTo]
  words := by
    intro j hj hlt
    simp only [launch_t, loadWorking_t] at hlt
    have h16 : j < 16 := by omega
    simp only [launch_W, loadWorking_W, loadSchedule_W]
    rw [loadWords_block _ _ _ h16, schedule_block _ _ h16]

/-- A round keeps the flight coherent (R151, R152). -/
theorem roundEdge_coherent {s : State} {f : InFlight} (hc : FlightCoherent s f) : FlightCoherent (roundEdge s) f := by
  by_cases h : s.t < 64
  · have hw := expandAt_agrees s.W (schedule f.blk) ⟨s.t, h⟩ (fun u hu => schedule_next f.blk u hu) hc.words
    refine ⟨hc.edge_left, ?_, ?_, ?_⟩
    · rw [roundEdge_of_lt s h]; exact h
    · rw [roundEdge_of_lt s h]
      show roundStep kRom[s.t] (expandAt ⟨s.t, h⟩ s.W)[s.t] s.work = roundsTo _ _ (s.t + 1)
      rw [roundsTo_succ _ _ _ h, ← hc.working, hw s.t h (by simp)]
    · rw [roundEdge_of_lt s h]; exact hw
  · rw [roundEdge_of_ge s (by omega)]; exact hc

/-- Any number of rounds keep the flight coherent. -/
theorem roundEdges_coherent {f : InFlight} (n : Nat) {s : State} (hc : FlightCoherent s f) :
    FlightCoherent (roundEdges n s) f := by
  induction n generalizing s with
  | zero => exact hc
  | succ n ih => exact ih (roundEdge_coherent hc)

/-- The counter after `n` more rounds. -/
theorem roundEdges_t (n : Nat) (s : State) (h : s.t + n ≤ 64) : (roundEdges n s).t = s.t + n := by
  induction n generalizing s with
  | zero => rfl
  | succ n ih =>
    have ht : (roundEdge s).t = s.t + 1 := by rw [roundEdge_t, if_pos (by omega)]
    simp only [roundEdges]
    rw [ih _ (by omega), ht]; omega

/-- The working registers once all 64 rounds have run are `Rounds(H, Schedule(blk))` (R154). -/
theorem finishRounds_working {s : State} {f : InFlight} (hc : FlightCoherent s f) :
    (finishRounds s).work = rounds s.H (schedule f.blk) := by
  have h := (roundEdges_coherent (64 - s.t) hc).working
  have hr := hc.round_range
  rw [roundEdges_t _ _ (by omega), show s.t + (64 - s.t) = 64 by omega, (roundEdges_frame _ s).1] at h
  exact h

/-- What the fold-back leaves in DigestState (R172, R174). -/
theorem completeCompress_H {s : State} {f : InFlight} (hc : FlightCoherent s f) :
    (completeCompress s).H = compress s.H f.blk := by
  simp only [completeCompress, retire_H, foldBack_H, finishRounds_H, finishRounds_working hc, compress]

/-- The count of the edges left and the frame of a count-down. -/
theorem countDown_coherent {s : State} {f : InFlight} (hc : FlightCoherent s f) (h : 1 < f.remaining) :
    FlightCoherent (countDown s) { f with remaining := f.remaining - 1 } :=
  ⟨by show 1 ≤ f.remaining - 1; omega, hc.round_range, hc.working, hc.words⟩

/-- The frame of a completion edge: everything it does not name (R104). -/
theorem completeCompress_frame (s : State) :
    (completeCompress s).work = (finishRounds s).work ∧ (completeCompress s).busy = false ∧
    (completeCompress s).done = true ∧ (completeCompress s).cmdErr = s.cmdErr ∧
    (completeCompress s).hdef = s.hdef ∧ (completeCompress s).inflight = none ∧
    (completeCompress s).draws = s.draws + 1 ∧ (completeCompress s).inputs = s.inputs := by
  simp [completeCompress]

end Sys2Proof.Machine
end

