-- ==== Sys2Proof/Laws/PerInstr.lean ====
section
/-! SUPPORT. The family `BlockPort` of statements made per command: what the value on `block_in` means for its decoding
(30_encoding R71). -/

namespace Sys2Proof.Laws

/-- The command's code decodes to it whatever stands on `block_in` where its format is C, and with its own block there
where its format is CB (R71, R73). -/
def BlockPort.Statement (i : Instr) : Prop :=
  match i.format with
  | .c => ∀ blk, decode (opcode i) blk = i
  | .cb => decode (opcode i) (operandBlock i) = i

theorem BlockPort.nop : BlockPort.Statement .nop := fun _ => rfl

theorem BlockPort.init : BlockPort.Statement .init := fun _ => rfl

theorem BlockPort.compress (blk : Block) : BlockPort.Statement (.compress blk) := rfl

theorem BlockPort.reserved : BlockPort.Statement .reserved := fun _ => rfl

end Sys2Proof.Laws
end

