-- ==== Sys2Proof/Tests/Slice0.lean ====
section
/-! SUPPORT. The model's own tests. Expected values are the spec's: its opcode table and encoding rules
(30_encoding R73, R80), its test vectors (95_test_vectors, cited as S<n> and V<n>) and its definitions of the ROMs. The
witness theorems show that the premises of the obligations can be met. -/

namespace Sys2Proof.Machine

/-! ### Helpers -/

/-- The padded block of "abc" (R80, V2). -/
def abcBlock : Block := 0x61626380#32 ++ 0#472 ++ 0x18#8

/-- The state after reset and INIT, built from the named operations (S3). -/
def afterInit : State := setDone (loadIv State.reset)

/-- A COMPRESS of the "abc" block just accepted after INIT, with `n` edges left (S7, S8). -/
def abcInFlight (n : Nat) : State :=
  { launch abcBlock (loadWorking (loadSchedule abcBlock afterInit)) with inflight := some ⟨abcBlock, n⟩ }

/-- An offer of a command at the ports. -/
def offerOf (i : Instr) : PortSample := offerSample (encode i)

/-- A property of the next state; a fault or a refusal has it not. -/
def nextHas (x : Host.Outcome State Fault Refusal) (p : State → Bool) : Bool :=
  match x with
  | .next s => p s
  | .fault _ => false
  | .refused _ => false

/-- `busy`, `done`, `cmd_err`, `hdef`, as the table of 95_test_vectors 2.1 lists them. -/
def bits (s : State) : Bool × Bool × Bool × Bool := (s.busy, s.done, s.cmdErr, s.hdef)

/-- `nextHas` says that there is a next state with the property. -/
theorem next_of_nextHas {x : Host.Outcome State Fault Refusal} {p : State → Bool} (h : nextHas x p = true) :
    ∃ s, x = .next s ∧ p s = true := by
  cases x with
  | next s => exact ⟨s, rfl, h⟩
  | fault r => simp [nextHas] at h
  | refused r => simp [nextHas] at h

/-! ### WellFormed: an ill-formed term for each check -/

theorem test_wf_compress_line_of_127_digits_refused :
    (HostLine.compress (List.replicate 127 0)).wellFormed = false := by decide +kernel

theorem test_wf_compress_line_with_a_digit_above_15_refused :
    (HostLine.compress (16 :: List.replicate 127 0)).wellFormed = false := by decide +kernel

theorem test_wf_compress_line_of_128_digits_accepted :
    (HostLine.compress (15 :: List.replicate 127 0)).wellFormed = true := by decide +kernel

/-! ### Decoding: the words of opcode_table.json, bit by bit -/

theorem test_decode_nop : decodeTableWord 8 0b00 = some .nop := by decide +kernel

theorem test_decode_init : decodeTableWord 8 0b01 = some .init := by decide +kernel

theorem test_decode_compress : decodeTableWord 8 0b10 = some (.compress 0) := by decide +kernel

theorem test_decode_reserved : decodeTableWord 8 0b11 = some .reserved := by decide +kernel

/-- R80: `cmd = 10` with the padded block of "abc" on `block_in`, written out as one number. -/
theorem test_decode_compress_abc :
    decodeTableWord 514 (0x61626380000000000000000000000000000000000000000000000000000000000000000000000000000000000000000000000000000000000000000000000018 * 4 + 0b10) =
      some (.compress abcBlock) := by decide +kernel

theorem test_decode_too_wide_refused : decodeWord (2 ^ 514) = .error .widerThanPorts := by decide +kernel

/-- The step after `withFetchWord` runs the table's word: INIT from reset sets `done` (S3). -/
theorem test_step_runs_the_fetch_word :
    nextHas (step (State.reset.withFetchWord 8 0b01)) (fun s => bits s == (false, true, false, true)) = true := by
  decide +kernel

/-! ### The commands, one step each (95_test_vectors 2.1) -/

/-- S5: NOP keeps `done` and DigestState. -/
theorem test_nop_keeps_done :
    nextHas (edge (offerOf .nop) afterInit) (fun s => s == afterInit) = true := by decide +kernel

/-- S3: INIT loads IV; the value of `digest_out` is the example of R102. -/
theorem test_init_digest_out :
    nextHas (edge (offerOf .init) State.reset) (fun s => bits s == (false, true, false, true) &&
      digestOut s == 0x6a09e667bb67ae853c6ef372a54ff53a510e527f9b05688c1f83d9ab5be0cd19) = true := by
  decide +kernel

/-- S11: INIT does not clear `cmd_err`. -/
theorem test_init_keeps_cmd_err :
    nextHas (edge (offerOf .init) (latchCmdErr afterInit)) (fun s => bits s == (false, true, true, true)) = true := by
  decide +kernel

/-- S6: the acceptance of COMPRESS sets `busy`, clears `done`, and leaves `digest_out` at IV. -/
theorem test_compress_acceptance :
    nextHas (edge (offerOf (.compress abcBlock)) afterInit) (fun s => bits s == (true, false, false, true) &&
      s.W[0] == 0x61626380 && s.W[15] == 0x18 && s.work.a == 0x6a09e667 && s.H == ivRom) = true := by
  decide +kernel

/-- S8: the completion edge, all 64 rounds and the fold, gives V2's digest. -/
theorem test_compress_completion_abc :
    nextHas (edge idleSample (abcInFlight 1)) (fun s => bits s == (false, true, false, true) &&
      digestOut s == 0xba7816bf8f01cfea414140de5dae2223b00361a396177a9cb410ff61f20015ad) = true := by
  decide +kernel

/-- S10: the reserved command sets `cmd_err` and nothing else. -/
theorem test_reserved_sets_cmd_err :
    nextHas (edge (offerOf .reserved) State.reset) (fun s => s == latchCmdErr State.reset) = true := by
  decide +kernel

/-- S14: the reserved command is not accepted while a COMPRESS is in flight. -/
theorem test_reserved_while_busy_not_accepted :
    nextHas (edge (offerOf .reserved) (abcInFlight 2)) (fun s => bits s == (true, false, false, true) &&
      s.inflight == some ⟨abcBlock, 1⟩) = true := by decide +kernel

/-- S9: COMPRESS before INIT. -/
theorem test_compress_before_init_faults :
    edge (offerOf (.compress abcBlock)) State.reset = .fault .uninitialisedDigest := by
  simp [edge, offerOf, offerSample, encode, operandBlock, opcode, decode, exec, execCompress, State.reset]

/-- S13, S16: a reset edge while a COMPRESS is in flight and an INIT is offered. -/
theorem test_reset_edge :
    nextHas (edge { offerOf .init with rst := true } (abcInFlight 1))
      (fun s => bits s == (false, false, false, false) && s.inflight == none) = true := by decide +kernel

/-- The reference schedule (R104): the first edge after the acceptance runs round 0; the row t = 0 of the trace of
95_test_vectors 2.4. -/
theorem test_first_round_edge :
    nextHas (edge idleSample (abcInFlight Config.referenceLatency)) (fun s => s.t == 1 && s.work ==
      ⟨0x5d6aebcd, 0x6a09e667, 0xbb67ae85, 0x3c6ef372, 0xfa2a4622, 0x510e527f, 0x9b05688c, 0x1f83d9ab⟩) = true := by
  decide +kernel

/-! ### ROMs, functions, schedule, rounds -/

/-- The first 64 primes. -/
def primes64 : List Nat :=
  [2, 3, 5, 7, 11, 13, 17, 19, 23, 29, 31, 37, 41, 43, 47, 53] ++
  [59, 61, 67, 71, 73, 79, 83, 89, 97, 101, 103, 107, 109, 113, 127, 131] ++
  [137, 139, 149, 151, 157, 163, 167, 173, 179, 181, 191, 193, 197, 199, 211, 223] ++
  [227, 229, 233, 239, 241, 251, 257, 263, 269, 271, 277, 281, 283, 293, 307, 311]

/-- `K[t] = floor(cbrt(p) * 2^32) mod 2^32`: with `q` the integer part of the root, `n = q * 2^32 + K[t]` is the integer
cube root of `p * 2^96` (R140). -/
theorem test_k_rom_is_cube_roots :
    (kRom.toList.zip primes64).all (fun (k, p) => (List.range 7).any fun q =>
      let n := q * 2 ^ 32 + k.toNat
      n ^ 3 ≤ p * 2 ^ 96 && p * 2 ^ 96 < (n + 1) ^ 3) = true := by decide +kernel

/-- `IV[i] = floor(sqrt(p) * 2^32) mod 2^32` (R170). -/
theorem test_iv_rom_is_square_roots :
    (ivRom.toList.zip primes64).all (fun (k, p) => (List.range 5).any fun q =>
      let n := q * 2 ^ 32 + k.toNat
      n ^ 2 ≤ p * 2 ^ 64 && p * 2 ^ 64 < (n + 1) ^ 2) = true := by decide +kernel

/-- 95_test_vectors 2.2, the row of 12345678. -/
theorem test_sigmas :
    smallSigma0 0x12345678 = 0xe7fce6ee ∧ smallSigma1 0x12345678 = 0xa1f78649 ∧
    bigSigma0 0x12345678 = 0x66146474 ∧ bigSigma1 0x12345678 = 0x3561abda := by decide +kernel

/-- 95_test_vectors 2.2, the table of ROTR. -/
theorem test_rotr :
    rotr 1 1 = 0x80000000 ∧ rotr 1 31 = 2 ∧ rotr 0x80000000 31 = 1 ∧ rotr 0x12345678 4 = 0x81234567 := by
  decide +kernel

/-- 95_test_vectors 2.2, the tables of Ch and Maj. -/
theorem test_ch_maj :
    ch 0xf0f0f0f0 0xaaaaaaaa 0x55555555 = 0xa5a5a5a5 ∧ maj 0xf0f0f0f0 0xcccccccc 0xaaaaaaaa = 0xe8e8e8e8 := by
  decide +kernel

/-- 95_test_vectors 2.3: words 16, 17, 31 and 63 of the "abc" schedule. -/
theorem test_schedule_abc :
    (schedule abcBlock)[16] = 0x61626380 ∧ (schedule abcBlock)[17] = 0x000f0000 ∧
    (schedule abcBlock)[31] = 0xd3b7973b ∧ (schedule abcBlock)[63] = 0x12b1edeb := by decide +kernel

/-- 95_test_vectors 2.4: `a..h` after round 63 of the "abc" block. -/
theorem test_rounds_abc :
    rounds ivRom (schedule abcBlock) =
      ⟨0x506e3058, 0xd39a2165, 0x04d24d6c, 0xb85e2ce9, 0x5ef50f24, 0xfb121210, 0x948d25b6, 0x961f4894⟩ := by
  decide +kernel

/-- 95_test_vectors 2.5: DigestState and block all ones. -/
theorem test_compress_all_ones :
    compress (Vector.replicate 8 (BitVec.allOnes 32)) (BitVec.allOnes 512) =
      #v[0x0598127a, 0xaf11706e, 0x77401fff, 0xd730c549, 0x0b84c867, 0xa98c6ca3, 0xd7f3c0f9, 0x06a78b79] := by
  decide +kernel

/-! ### The host side -/

/-- V5, conflict C3: 55 bytes take one block, with no zero byte; V6: 56 bytes take two, with 63. -/
theorem test_padding_boundary :
    zeroCount 55 = 0 ∧ blockCount 55 = 1 ∧ zeroCount 56 = 63 ∧ blockCount 56 = 2 ∧ zeroCount 0 = 55 := by decide

/-- V2: the block of "abc". -/
theorem test_pad_blocks_abc : padBlocks .full64 [0x61, 0x62, 0x63] = [abcBlock] := by decide +kernel

/-- V1, conflict C1: the digest of the empty message, 64 characters. -/
theorem test_software_digest_empty :
    softwareDigest .full64 .reject [] =
      some "e3b0c44298fc1c149afbf4c8996fb92427ae41e4649b934ca495991b7852b855".toList := by decide +kernel

/-- R8, R192: LEN_MODE is FULL64 by default, so a host that sets nothing writes the exact length at `len = 2^29` and
refuses nothing there; and its digest of the empty message is V1's. -/
theorem test_len_mode_default :
    Config.defaultLenMode = .full64 ∧ (default : LenMode) = Config.defaultLenMode ∧
    lenField Config.defaultLenMode (2 ^ 29) = [0, 0, 0, 1, 0, 0, 0, 0] ∧
    hostAccepts Config.defaultLenMode .reject (2 ^ 29) = true ∧
    digest .reject [] = some "e3b0c44298fc1c149afbf4c8996fb92427ae41e4649b934ca495991b7852b855".toList := by
  decide +kernel

/-- 95_test_vectors 2.7: the length fields at `len = 2^29`. -/
theorem test_length_field_wrap :
    lenField .full64 (2 ^ 29) = [0, 0, 0, 1, 0, 0, 0, 0] ∧
    lenField .trunc32 (2 ^ 29) = [0, 0, 0, 0, 0, 0, 0, 0] := by decide +kernel

/-- R78, R79: lines of a script. -/
theorem test_parse_lines :
    parseLine "INIT   ; load IV".toList = .ok (some .init) ∧ parseLine "READ -> d".toList = .ok (some (.read ['d'])) ∧
    parseLine "; nothing".toList = .ok none ∧ parseLine "COMPRESS 0x00".toList = .error .badBlock ∧
    parseLine "HALT".toList = .error .unknownCommand := by decide +kernel

/-- R78: a script is its lines in order, a comment line being none. -/
theorem test_parse_script :
    parseScript ["RESET".toList, "; boot".toList, "RSV".toList] = .ok [.reset, .rsv] := by decide +kernel

/-- R79: a HASH line carries its bytes. -/
theorem test_parse_hash :
    parseLine ("HASH ".toList ++ [Char.ofNat 34, 'a', 'b', Char.ofNat 34]) = .ok (some (.hash [0x61, 0x62])) := by
  decide +kernel

/-! ### Witnesses: the premises of the obligations are met -/

/-- The state after INIT meets the invariant. -/
theorem afterInit_inv : afterInit.Inv :=
  ⟨rfl, by decide, by decide, by decide, fun f h => by simp [afterInit, State.reset] at h⟩

/-- The "abc" COMPRESS in flight meets it with any number of edges left. -/
theorem abcInFlight_inv (n : Nat) (h : 1 ≤ n) : (abcInFlight n).Inv := by
  refine ⟨rfl, by simp [abcInFlight], fun _ => rfl, fun _ => rfl, fun f hf => ?_⟩
  have hc := launch_coherent abcBlock afterInit
  simp only [abcInFlight, Option.some.injEq] at hf
  subst hf
  exact ⟨h, hc.round_range, hc.working, hc.words⟩

/-- CompressAccepted: both clauses, `hdef` true and false. -/
theorem witness_CompressAccepted : afterInit.hdef = true ∧ State.reset.hdef = false := ⟨rfl, rfl⟩

/-- ReservedCompletes, second clause. -/
theorem witness_ReservedCompletes :
    ∃ s s' p, s.busy = true ∧ p.rst = false ∧ p.cmd = 0b11#2 ∧ edge p s = .next s' :=
  ⟨abcInFlight 2, _, offerOf .reserved, rfl, rfl, by decide +kernel, rfl⟩

/-- AllowedCommandsAreSafe: COMPRESS after an INIT. -/
theorem witness_AllowedCommandsAreSafe :
    commandAllowed (.compress abcBlock) afterInit = true ∧ afterInit.noFaultBit = true := ⟨rfl, rfl⟩

/-- EdgePriority: a sample and a state for each of the four clauses. -/
theorem witness_EdgePriority :
    resetSample.rst = true ∧ (idleSample.rst = false ∧ (abcInFlight 1).busy = true) ∧
    ((offerOf .init).rst = false ∧ State.reset.busy = false ∧ (offerOf .init).cmdValid = true) ∧
    (idleSample.rst = false ∧ State.reset.busy = false ∧ idleSample.cmdValid = false) :=
  ⟨rfl, ⟨rfl, rfl⟩, ⟨rfl, rfl, rfl⟩, rfl, rfl, rfl⟩

/-- StepRunsDecodedCommand: an offer at the head of the samples, a well-formed command, and no sample at all. -/
theorem witness_StepRunsDecodedCommand :
    ((offerNext (offerOf .init) State.reset).inputs = offerOf .init :: [] ∧ (offerOf .init).rst = false ∧
      (offerOf .init).cmdValid = true ∧ (offerNext (offerOf .init) State.reset).busy = false) ∧
    Instr.init.wellFormed = true ∧ (State.reset.inputs = [] ∧ State.reset.busy = false) :=
  ⟨⟨rfl, rfl, rfl, rfl⟩, rfl, rfl, rfl⟩

/-- OffersWhileBusyHaveNoEffect: two different samples while busy. -/
theorem witness_OffersWhileBusyHaveNoEffect :
    (abcInFlight 2).busy = true ∧ (offerOf .init).rst = false ∧ idleSample.rst = false ∧
    offerOf .init ≠ idleSample := ⟨rfl, rfl, rfl, by decide +kernel⟩

/-- HeldOfferIsTaken: INIT held through the completion edge. -/
theorem witness_HeldOfferIsTaken :
    ∃ s s' p q, s.busy = true ∧ p.rst = false ∧ p.cmdValid = true ∧ edge p s = .next s' ∧ s'.busy = false ∧
      offerHeld s p q = true ∧ q.rst = false :=
  ⟨abcInFlight 1, _, offerOf .init, offerOf .init, rfl, rfl, rfl, rfl, rfl, by decide +kernel, rfl⟩

/-- FormatCIgnoresBlock: an INIT. -/
theorem witness_FormatCIgnoresBlock : (offerOf .init).cmd ≠ 0b10#2 := by decide +kernel

/-- ResetEdgeClears, ResetAbandonsCompress: a reset edge while busy. -/
theorem witness_ResetAbandonsCompress : (abcInFlight 1).busy = true ∧ resetSample.rst = true := ⟨rfl, rfl⟩

/-- The four rules of the state bits: each bit can be 1 after an edge, by acceptance or kept, with its guard met. -/
theorem witness_bit_rules :
    (∃ s', edge (offerOf (.compress abcBlock)) afterInit = .next s' ∧ s'.busy = true) ∧
    (∃ s', edge idleSample (abcInFlight 2) = .next s' ∧ s'.busy = true) ∧
    (∃ s', edge idleSample (abcInFlight 1) = .next s' ∧ s'.done = true) ∧
    (∃ s', edge (offerOf .init) State.reset = .next s' ∧ (s'.done && s'.hdef) = true) ∧
    (∃ s', edge idleSample afterInit = .next s' ∧ (s'.done && s'.hdef) = true) ∧
    (∃ s', edge (offerOf .reserved) State.reset = .next s' ∧ s'.cmdErr = true) ∧
    (∃ s', edge (offerOf .nop) (latchCmdErr State.reset) = .next s' ∧ s'.cmdErr = true) := by
  refine ⟨?_, ?_, ?_, ?_, ?_, ?_, ?_⟩ <;> exact next_of_nextHas (by decide +kernel)

/-- DigestStateWrites: an INIT, a completion, and an edge that keeps DigestState. -/
theorem witness_DigestStateWrites :
    (∃ s', edge (offerOf .init) State.reset = .next s' ∧ (s'.H == ivRom) = true) ∧
    (∃ s', edge idleSample (abcInFlight 1) = .next s' ∧ (!s'.busy) = true) ∧
    (∃ s', edge (offerOf .nop) afterInit = .next s' ∧ (s'.H == ivRom) = true) ∧
    (offerOf .init).rst = false ∧ idleSample.rst = false ∧ (offerOf .nop).rst = false := by
  refine ⟨?_, ?_, ?_, rfl, rfl, rfl⟩ <;> exact next_of_nextHas (by decide +kernel)

/-- InvariantKeptByStep: a step of a COMPRESS in flight. -/
theorem witness_InvariantKeptByStep : ∃ s s', s.Inv ∧ step s = .next s' :=
  ⟨abcInFlight 2, _, abcInFlight_inv 2 (by decide), rfl⟩

/-- OnlyUninitialisedCompressFaults, TransactionLevelAgreement, MessageIsChainFromIv, HashLineGivesSoftwareDigest: the
invariant, with a COMPRESS in flight and without. -/
theorem witness_invariant_premises : (abcInFlight 1).Inv ∧ afterInit.Inv :=
  ⟨abcInFlight_inv 1 (by decide), afterInit_inv⟩

/-- ProgressShowsNothing: two edges left, the least number that is not the last. -/
theorem witness_ProgressShowsNothing :
    idleSample.rst = false ∧ (abcInFlight 2).busy = true ∧ (abcInFlight 2).inflight = some ⟨abcBlock, 2⟩ ∧ 1 < 2 :=
  ⟨rfl, rfl, rfl, by decide⟩

/-- CompletionWritesCompress, NoWaitStates: the last edge. -/
theorem witness_CompletionWritesCompress :
    (abcInFlight 1).Inv ∧ idleSample.rst = false ∧ (abcInFlight 1).inflight = some ⟨abcBlock, 1⟩ ∧
    State.reset.busy = false :=
  ⟨abcInFlight_inv 1 (by decide), rfl, rfl, rfl⟩

/-- CompressRunsToCompletion, IdleInternalsUnobservable: idle after INIT, no reset among the samples. -/
theorem witness_CompressRunsToCompletion :
    afterInit.Inv ∧ afterInit.busy = false ∧ afterInit.hdef = true ∧
    ∀ p ∈ afterInit.inputs.take (compressLatency afterInit.draws), p.rst = false :=
  ⟨afterInit_inv, rfl, rfl, by simp [afterInit, State.reset]⟩

/-- HashLineGivesSoftwareDigest: a message the host goes on with, and one it does not. -/
theorem witness_HashLineGivesSoftwareDigest :
    hostAccepts .full64 .reject ([] : List Byte).length = true ∧
    hostAccepts .trunc32 .reject (List.replicate (2 ^ 29) (0 : Byte)).length = false := by
  simp only [List.length_replicate]
  decide

/-- InstancesIndependent: two engines, each stepping in turn. -/
theorem witness_InstancesIndependent :
    ∃ es' es'', stepInstance 0 [State.reset, afterInit] = .next es' ∧ (1 : Nat) ≠ 0 ∧
      stepInstance 1 es' = .next es'' :=
  ⟨_, _, rfl, by decide, rfl⟩

/-- DecodeEncodeAgree: a command, a command with an operand, and the least number that is too wide. -/
theorem witness_DecodeEncodeAgree :
    Instr.nop.wellFormed = true ∧ (Instr.compress abcBlock).format = .cb ∧ (2 : Nat) ^ 514 ≤ 2 ^ 514 :=
  ⟨rfl, rfl, Nat.le_refl _⟩

/-- BlockBusLayout, DigestBusLayout, ReadingChangesNothing: 64 bytes, and DigestState defined. -/
theorem witness_bus_layouts : (List.replicate 64 (0x80 : Byte)).length = 64 ∧ afterInit.hdef = true := ⟨rfl, rfl⟩

/-- RotationArithmetic, SigmaBits, ChooseAndMajorityBits: the ends of the ranges of `n` and of `i`. -/
theorem witness_bit_ranges :
    ((0 < 1 ∧ 1 < 32) ∧ (0 < 31 ∧ 31 < 32)) ∧ (0 < 32 ∧ 31 < 32) := by decide

/-- RoundsInOrder, ScheduleOfBlock, FoldWrapsPerWord: the ends of the ranges of the rounds, of the two schedule clauses
and of the words. -/
theorem witness_schedule_ranges :
    (0 ≤ 64 ∧ 64 ≤ 64) ∧ (0 < 16 ∧ 15 < 16) ∧ ((16 < 64 ∧ 16 ≤ 16) ∧ (63 < 64 ∧ 16 ≤ 63)) ∧ (0 < 8 ∧ 7 < 8) := by decide

/-- LengthFieldModes: lengths on both sides of 2^29 and the last in range. -/
theorem witness_LengthFieldModes :
    8 * (2 ^ 29 - 1) < 2 ^ 64 ∧ 8 * 2 ^ 29 < 2 ^ 64 ∧ 8 * (2 ^ 61 - 1) < 2 ^ 64 := by decide

/-- PaddedBlocksCarryBytes: the empty message has a block. -/
theorem witness_PaddedBlocksCarryBytes : 0 < (padBlocks .full64 []).length := by decide +kernel

end Sys2Proof.Machine
end

section
/-! SUPPORT. The helper predicates about a COMPRESS in flight (41_commands R104; log 1). -/

namespace Sys2Proof.Machine

/-- No reset among the next `n` samples, an idle host's samples included (log 1). -/
def NoReset (n : Nat) (s : State) : Prop := ∀ p ∈ s.inputs.take n, p.rst = false

/-- In `v` the flight `f` of a COMPRESS accepted in `s` is under way, and no port but `busy` and `done` shows it. -/
structure FlightFrom (s : State) (f : InFlight) (v : State) : Prop where
  coherent : FlightCoherent v f
  inflight : v.inflight = some f
  busy : v.busy = true
  done : v.done = false
  cmdErr : v.cmdErr = s.cmdErr
  hdef : v.hdef = s.hdef
  digest : v.H = s.H

end Sys2Proof.Machine
end

section
/-! SUPPORT. The word primitives in numbers and in bits (00_scope R11). -/

namespace Sys2Proof.Machine

/-- A shift right divides (R11). -/
theorem shr_toNat (x : Word) (n : Nat) : (shr x n).toNat = x.toNat / 2 ^ n := by
  rw [shr, BitVec.toNat_ushiftRight, Nat.shiftRight_eq_div_pow]

/-- R11's formula for the rotation, in numbers. -/
theorem rotr_toNat (x : Word) (n : Nat) :
    (rotr x n).toNat = x.toNat / 2 ^ n ||| (x.toNat * 2 ^ (32 - n)) % 2 ^ 32 := by
  rw [rotr, BitVec.toNat_or, shr_toNat, BitVec.toNat_shiftLeft, Nat.shiftLeft_eq]

/-- R11's rotation is the library's. -/
theorem rotr_eq_rotateRight (x : Word) {n : Nat} (hn : n < 32) : rotr x n = x.rotateRight n := by
  rw [rotr, shr, BitVec.rotateRight_def, Nat.mod_eq_of_lt hn]

/-- Each bit of a rotation: below `32 - n` it is the bit `n` places up, above it one that has come round. -/
theorem rotr_getLsbD (x : Word) {n i : Nat} (hn : n < 32) (hi : i < 32) :
    (rotr x n).getLsbD i = x.getLsbD ((i + n) % 32) := by
  rw [rotr_eq_rotateRight x hn, BitVec.getLsbD_rotateRight, Nat.mod_eq_of_lt hn]
  by_cases h : i < 32 - n
  · simp [h, show (i + n) % 32 = n + i by omega]
  · simp [h, hi, show (i + n) % 32 = i - (32 - n) by omega]

/-- Settles O39: the formulas of R11 and the bit rule of the rotation. -/
theorem rotationArithmetic : Obligations.RotationArithmetic := by
  intro x n _ hn
  exact ⟨shr_toNat x n, rotr_toNat x n, fun _ hi => rotr_getLsbD x hn hi⟩

end Sys2Proof.Machine
end

section
/-! SUPPORT. One edge of a COMPRESS in flight, and runs of steps (41_commands R100, R103, R104). -/

namespace Sys2Proof.Machine

/-! ### The edge -/

/-- With DigestState defined, `digest_out` is DigestState (R52). -/
theorem digestOut_of_hdef {s : State} (h : s.hdef = true) : digestOut s = packDigest s.H := by
  simp [digestOut, h]

/-- The acceptance of a COMPRESS with DigestState defined (R103). -/
theorem exec_compress_of_hdef (blk : Block) {s : State} (h : s.hdef = true) :
    exec (.compress blk) s = .next (launch blk (loadWorking (loadSchedule blk s))) := by
  simp [exec, execCompress, h]

/-- While busy and without a reset, an edge is `Progress()` whatever else the host drives (R100, R106). -/
theorem edge_of_busy {p : PortSample} {s : State} (hp : p.rst = false) (hb : s.busy = true) :
    edge p s = progress s := by
  simp [edge, hp, hb]

/-- An edge of a COMPRESS before its last (R104). -/
theorem progress_before_last {s : State} {f : InFlight} (hf : s.inflight = some f) (h : 1 < f.remaining) :
    progress s = .next (countDown (roundEdge s)) := by
  simp [progress, hf, h]

/-- The last edge of a COMPRESS (R104). -/
theorem progress_last {s : State} {f : InFlight} (hf : s.inflight = some f) (h : f.remaining ≤ 1) :
    progress s = .next (completeCompress s) := by
  simp [progress, hf, Nat.not_lt.mpr h]

/-! ### Runs of steps -/

theorem runSteps_succ_of_step {s s' : State} (h : step s = .next s') (n : Nat) :
    runSteps (n + 1) s = runSteps n s' := by
  simp [runSteps, h]

/-- Runs of steps follow one another. -/
theorem runSteps_add (m n : Nat) (s : State) :
    runSteps (m + n) s = andThen (runSteps m s) (runSteps n) := by
  induction m generalizing s with
  | zero => simp [runSteps]
  | succ m ih =>
    rw [Nat.succ_add]
    simp only [runSteps]
    cases step s with
    | next s' => exact ih s'
    | fault r => rfl
    | refused r => rfl

/-! ### The samples ahead -/

theorem NoReset.nextSample_rst {n : Nat} {s : State} (h : NoReset (n + 1) s) : (nextSample s).rst = false := by
  unfold nextSample
  cases hi : s.inputs with
  | nil => rfl
  | cons p rest => exact h p (by simp [hi])

/-- One sample used, one fewer to answer for. -/
theorem NoReset.of_tail {n : Nat} {s s' : State} (h : NoReset (n + 1) s) (hi : s'.inputs = s.inputs.tail) :
    NoReset n s' := by
  intro p hp
  rw [hi] at hp
  refine h p ?_
  cases hs : s.inputs with
  | nil => simp [hs] at hp
  | cons q rest => exact List.mem_cons_of_mem q (by simpa [hs] using hp)

end Sys2Proof.Machine
end

section
/-! SUPPORT. A COMPRESS from its acceptance to its completion (41_commands R103, R104; 20_memory R60). -/

namespace Sys2Proof.Machine

/-- The acceptance begins a flight (R103). -/
theorem launch_flightFrom (blk : Block) (s : State) :
    FlightFrom s ⟨blk, compressLatency s.draws⟩ (launch blk (loadWorking (loadSchedule blk s))) where
  coherent := launch_coherent blk s
  inflight := by simp
  busy := by simp
  done := by simp
  cmdErr := by simp
  hdef := by simp
  digest := by simp

/-- Which samples the host still has to drive is no part of a flight. -/
theorem FlightFrom.flight_dropSample {s v : State} {f : InFlight} (h : FlightFrom s f v) :
    FlightFrom s f (dropSample v) where
  coherent := ⟨h.coherent.edge_left, h.coherent.round_range, h.coherent.working, h.coherent.words⟩
  inflight := by simp [h.inflight]
  busy := by simp [h.busy]
  done := by simp [h.done]
  cmdErr := by simp [h.cmdErr]
  hdef := by simp [h.hdef]
  digest := by simp [h.digest]

/-- An edge before the last goes on with the flight, one edge fewer left (R104). -/
theorem FlightFrom.flight_countDown {s v : State} {f : InFlight} (h : FlightFrom s f v) (hn : 1 < f.remaining) :
    FlightFrom s ⟨f.blk, f.remaining - 1⟩ (countDown (roundEdge v)) where
  coherent := countDown_coherent (roundEdge_coherent h.coherent) hn
  inflight := by simp [h.inflight]
  busy := by simp [h.busy]
  done := by simp [h.done]
  cmdErr := by simp [h.cmdErr]
  hdef := by simp [h.hdef]
  digest := by simp [h.digest]

/-- `digest_out` shows the old value throughout a flight (R21, R60). -/
theorem FlightFrom.digestOut_eq {s v : State} {f : InFlight} (h : FlightFrom s f v) (hs : s.hdef = true) :
    digestOut v = digestOut s := by
  rw [digestOut_of_hdef hs, digestOut_of_hdef (h.hdef.trans hs), h.digest]

/-- A step of a flight, without a reset, is `Progress()`. -/
theorem FlightFrom.step_eq {s v : State} {f : InFlight} (h : FlightFrom s f v) (hr : (nextSample v).rst = false) :
    step v = progress (dropSample v) :=
  edge_of_busy hr h.flight_dropSample.busy

/-- After `k` steps without a reset, fewer than the edges left, the flight is still under way. -/
theorem FlightFrom.runSteps_flight {s v : State} {blk : Block} {k n : Nat} (h : FlightFrom s ⟨blk, n + 1⟩ v)
    (hr : NoReset (n + 1) v) (hk : k ≤ n) :
    ∃ w, runSteps k v = .next w ∧ FlightFrom s ⟨blk, n - k + 1⟩ w ∧ NoReset (n - k + 1) w := by
  induction k generalizing v n with
  | zero => exact ⟨v, rfl, h, hr⟩
  | succ k ih =>
    obtain ⟨m, rfl⟩ := Nat.exists_add_one_eq.mpr (show 0 < n by omega)
    have hlt : 1 < m + 1 + 1 := by omega
    have hstep := (h.step_eq hr.nextSample_rst).trans (progress_before_last h.flight_dropSample.inflight hlt)
    rw [runSteps_succ_of_step hstep, Nat.add_sub_add_right]
    exact ih (h.flight_dropSample.flight_countDown hlt) (hr.of_tail (by simp)) (by omega)

/-- The step with one edge left completes the COMPRESS (R104). -/
theorem FlightFrom.step_last {s v : State} {blk : Block} (h : FlightFrom s ⟨blk, 1⟩ v) (hr : NoReset 1 v) :
    step v = .next (completeCompress (dropSample v)) :=
  (h.step_eq hr.nextSample_rst).trans (progress_last h.flight_dropSample.inflight (Nat.le_refl 1))

/-- A flight with `n + 1` edges left completes at the last of them. -/
theorem FlightFrom.runSteps_complete {s v : State} {blk : Block} {n : Nat} (h : FlightFrom s ⟨blk, n + 1⟩ v)
    (hr : NoReset (n + 1) v) :
    ∃ w, FlightFrom s ⟨blk, 1⟩ w ∧ runSteps (n + 1) v = .next (completeCompress w) := by
  obtain ⟨w, hrun, hw, hrw⟩ := h.runSteps_flight hr (Nat.le_refl n)
  rw [Nat.sub_self] at hw hrw
  refine ⟨dropSample w, hw.flight_dropSample, ?_⟩
  rw [runSteps_add, hrun, andThen_of_next, runSteps_succ_of_step (hw.step_last hrw)]
  rfl

/-- Settles O25: the flight that the acceptance begins is followed for fewer than L steps, and then to its
completion. -/
theorem compressRunsToCompletion : Obligations.CompressRunsToCompletion := by
  intro s blk _ _ hdef (hr : NoReset (compressLatency s.draws) s)
  have h0 := launch_flightFrom blk s
  have hr0 : NoReset (compressLatency s.draws) (launch blk (loadWorking (loadSchedule blk s))) := by
    simpa [NoReset] using hr
  obtain ⟨w, hw, hrun⟩ := h0.runSteps_complete hr0
  obtain ⟨-, hbusy, hdone, hcmdErr, hhdef, -⟩ := completeCompress_frame w
  have hH : (completeCompress w).H = compress s.H blk := by
    rw [completeCompress_H hw.coherent, hw.digest]
  refine ⟨_, _, Nat.succ_pos _, exec_compress_of_hdef blk hdef, fun k hk => ?_, hrun, hH, hbusy, hdone,
    hcmdErr.trans hw.cmdErr, ?_⟩
  · obtain ⟨v, hv, hfl, -⟩ := h0.runSteps_flight hr0 (Nat.le_of_lt_succ hk)
    exact ⟨v, hv, hfl.busy, hfl.done, hfl.cmdErr, hfl.digestOut_eq hdef⟩
  · rw [digestOut_of_hdef (hhdef.trans (hw.hdef.trans hdef)), hH]

end Sys2Proof.Machine
end

section
/-! SUPPORT. What the decoder reads from each code, and the frames of the two edges that end a COMPRESS
(30_encoding R73; 41_commands R104; 70_reset_and_hazards R240). -/

namespace Sys2Proof.Machine

/-- The code of what the decoder reads is the code on `cmd`, so each code selects its own row (R73, R75). -/
theorem opcode_decode (c : Cmd) (blk : Block) : opcode (decode c blk) = c := by
  unfold decode
  split_ifs with h0 h1 h2
  · exact h0.symm
  · exact h1.symm
  · exact h2.symm
  · show 0b11#2 = c
    bv_omega

@[simp] theorem resetEdge_busy (s : State) : (resetEdge s).busy = false := clearStatus_busy _
@[simp] theorem resetEdge_done (s : State) : (resetEdge s).done = false := clearStatus_done _
@[simp] theorem resetEdge_cmdErr (s : State) : (resetEdge s).cmdErr = false := clearStatus_cmdErr _
@[simp] theorem resetEdge_hdef (s : State) : (resetEdge s).hdef = false := clearStatus_hdef _
@[simp] theorem resetEdge_inflight (s : State) : (resetEdge s).inflight = none := clearStatus_inflight _
@[simp] theorem resetEdge_draws (s : State) : (resetEdge s).draws = s.draws + 1 := by simp [resetEdge]
@[simp] theorem resetEdge_inputs (s : State) : (resetEdge s).inputs = s.inputs := by simp [resetEdge]

@[simp] theorem completeCompress_busy (s : State) : (completeCompress s).busy = false := retire_busy _
@[simp] theorem completeCompress_done (s : State) : (completeCompress s).done = true := retire_done _
@[simp] theorem completeCompress_inflight (s : State) : (completeCompress s).inflight = none := retire_inflight _
@[simp] theorem completeCompress_work (s : State) : (completeCompress s).work = (finishRounds s).work := by
  simp [completeCompress]
@[simp] theorem completeCompress_cmdErr (s : State) : (completeCompress s).cmdErr = s.cmdErr := by
  simp [completeCompress]
@[simp] theorem completeCompress_hdef (s : State) : (completeCompress s).hdef = s.hdef := by
  simp [completeCompress]
@[simp] theorem completeCompress_draws (s : State) : (completeCompress s).draws = s.draws + 1 := by
  simp [completeCompress]
@[simp] theorem completeCompress_inputs (s : State) : (completeCompress s).inputs = s.inputs := by
  simp [completeCompress]

/-- The fold-back of a completion edge adds the working registers that the edge leaves (R172). -/
theorem completeCompress_H_eq_fold (s : State) : (completeCompress s).H = fold s.H (completeCompress s).work := by
  simp [completeCompress]

end Sys2Proof.Machine
end

section
/-! SUPPORT. The eight ways one rising edge answers a next state, each with its guard (41_commands R100 to R105). -/

namespace Sys2Proof.Machine

/-- The edge under the sample `p` takes `s` to the state of its index. -/
inductive EdgeTo (p : PortSample) (s : State) : State → Prop where
  /-- A reset edge (R240). -/
  | reset (hr : p.rst = true) : EdgeTo p s (resetEdge s)
  /-- An edge of a COMPRESS in flight before its last (R104). -/
  | countDown (hr : p.rst = false) (hb : s.busy = true) {f : InFlight} (hf : s.inflight = some f)
      (hn : 1 < f.remaining) : EdgeTo p s (countDown (roundEdge s))
  /-- The completion edge of a COMPRESS (R104, R172). -/
  | complete (hr : p.rst = false) (hb : s.busy = true) {f : InFlight} (hf : s.inflight = some f)
      (hn : f.remaining ≤ 1) : EdgeTo p s (completeCompress s)
  /-- The acceptance of a NOP (R101). -/
  | nop (hr : p.rst = false) (hb : s.busy = false) (hv : p.cmdValid = true) (hc : p.cmd = 0b00#2) : EdgeTo p s s
  /-- The acceptance of an INIT (R102). -/
  | init (hr : p.rst = false) (hb : s.busy = false) (hv : p.cmdValid = true) (hc : p.cmd = 0b01#2) :
      EdgeTo p s (setDone (loadIv s))
  /-- The acceptance of a COMPRESS of the block on `block_in` (R103). -/
  | compress (hr : p.rst = false) (hb : s.busy = false) (hv : p.cmdValid = true) (hc : p.cmd = 0b10#2)
      (hd : s.hdef = true) : EdgeTo p s (launch p.blockIn (loadWorking (loadSchedule p.blockIn s)))
  /-- The acceptance of the reserved command (R105). -/
  | reserved (hr : p.rst = false) (hb : s.busy = false) (hv : p.cmdValid = true) (hc : p.cmd = 0b11#2) :
      EdgeTo p s (latchCmdErr s)
  /-- An edge at which nothing is offered. -/
  | idle (hr : p.rst = false) (hb : s.busy = false) (hv : p.cmdValid = false) : EdgeTo p s s

/-- Every next state an edge answers is one of the eight. -/
theorem EdgeTo.of_edge {p : PortSample} {s s' : State} (h : edge p s = .next s') : EdgeTo p s s' := by
  obtain ⟨hr, rfl⟩ | ⟨hr, hb, hp⟩ | ⟨hr, hb, hv, he⟩ | ⟨hr, hb, hv, rfl⟩ := edge_cases h
  · exact .reset hr
  · obtain ⟨f, hf, ⟨hn, rfl⟩ | ⟨hn, rfl⟩⟩ := progress_cases hp
    · exact .countDown hr hb hf hn
    · exact .complete hr hb hf hn
  · have hc := opcode_decode p.cmd p.blockIn
    obtain ⟨hi, rfl⟩ | ⟨hi, rfl⟩ | ⟨blk, hi, hd, rfl⟩ | ⟨hi, rfl⟩ := exec_cases he
    · exact .nop hr hb hv (hi ▸ hc).symm
    · exact .init hr hb hv (hi ▸ hc).symm
    · have hcmd : p.cmd = 0b10#2 := (hi ▸ hc).symm
      rw [hcmd] at hi
      obtain rfl : p.blockIn = blk := Instr.compress.inj hi
      exact .compress hr hb hv hcmd hd
    · exact .reserved hr hb hv (hi ▸ hc).symm
  · exact .idle hr hb hv

end Sys2Proof.Machine
end

section
/-! SUPPORT. The invariant of R38: where it holds with nothing in flight, and that every edge keeps it (10_state R24,
R38; 42_schedule R123; 43_rounds R152). -/

namespace Sys2Proof.Machine

/-- With nothing in flight the invariant asks only that a result is defined (R29). -/
theorem State.Inv.of_idle {s : State} (hb : s.busy = false) (hf : s.inflight = none)
    (hd : s.done = true → s.hdef = true) : s.Inv where
  busy_iff_inflight := by simp [hb, hf]
  not_busy_and_done := by simp [hb]
  busy_defined := by simp [hb]
  done_defined := hd
  flight := by simp [hf]

/-- Nothing is in flight while `busy = 0` (R38). -/
theorem State.Inv.inflight_of_idle {s : State} (h : s.Inv) (hb : s.busy = false) : s.inflight = none := by
  simpa [hb] using h.busy_iff_inflight.symm

/-- Which samples the host still has to drive is no part of the invariant (log 1). -/
theorem State.Inv.inv_dropSample {s : State} (h : s.Inv) : (dropSample s).Inv where
  busy_iff_inflight := h.busy_iff_inflight
  not_busy_and_done := h.not_busy_and_done
  busy_defined := h.busy_defined
  done_defined := h.done_defined
  flight f hf :=
    have hc := h.flight f hf
    ⟨hc.edge_left, hc.round_range, hc.working, hc.words⟩

/-- An edge of a COMPRESS before its last keeps the invariant (R104, R151, R123). -/
theorem State.Inv.inv_countDown {s : State} {f : InFlight} (h : s.Inv) (hf : s.inflight = some f)
    (hn : 1 < f.remaining) : (countDown (roundEdge s)).Inv where
  busy_iff_inflight := by simpa using h.busy_iff_inflight
  not_busy_and_done := by simpa using h.not_busy_and_done
  busy_defined := by simpa using h.busy_defined
  done_defined := by simpa using h.done_defined
  flight g hg := by
    obtain rfl : { f with remaining := f.remaining - 1 } = g := by simpa [hf] using hg
    exact countDown_coherent (roundEdge_coherent (h.flight f hf)) hn

/-- The acceptance of a COMPRESS with DigestState defined leaves a state that meets the invariant (R103). -/
theorem launch_inv (blk : Block) {s : State} (hd : s.hdef = true) :
    (launch blk (loadWorking (loadSchedule blk s))).Inv where
  busy_iff_inflight := by simp
  not_busy_and_done := by simp
  busy_defined := by simp [hd]
  done_defined := by simp [hd]
  flight f hf := by
    obtain rfl : ⟨blk, compressLatency s.draws⟩ = f := by simpa using hf
    exact launch_coherent blk s

/-- Every edge keeps the invariant, whatever the host drives. -/
theorem State.Inv.inv_edge {p : PortSample} {s s' : State} (h : s.Inv) (he : edge p s = .next s') : s'.Inv := by
  cases EdgeTo.of_edge he with
  | reset => exact .of_idle (by simp) (by simp) (by simp)
  | countDown _ _ hf hn => exact h.inv_countDown hf hn
  | complete _ hb => exact .of_idle (by simp) (by simp) (by simpa using h.busy_defined hb)
  | nop => exact h
  | init _ hb => exact .of_idle (by simpa using hb) (by simpa using h.inflight_of_idle hb) (by simp)
  | compress _ _ _ _ hd => exact launch_inv p.blockIn hd
  | reserved _ hb =>
    exact .of_idle (by simpa using hb) (by simpa using h.inflight_of_idle hb) (by simpa using h.done_defined)
  | idle => exact h

/-- Settles O21: a step is an edge, and whichever way the edge goes, the invariant is kept. -/
theorem invariantKeptByStep : Obligations.InvariantKeptByStep := by
  intro s s' h hstep
  exact h.inv_dropSample.inv_edge hstep

/-- Settles O20: nothing is in flight and there is no result. -/
theorem invariantAtReset : Obligations.InvariantAtReset :=
  .of_idle rfl rfl (by simp [State.reset])

end Sys2Proof.Machine
end

section
/-! SUPPORT. The state bits, DigestState and the ports after any edge (10_state R20, R21, R25 to R29, R34, R36). -/

namespace Sys2Proof.Machine

/-- Settles O14: only a COMPRESS accepted or still in flight leaves `busy` set. -/
theorem busyBitRule : Obligations.BusyBitRule := by
  intro s s' p h
  cases EdgeTo.of_edge h with
  | reset hr => simp [hr]
  | countDown hr hb hf hn => simp [hr, hb, hf, hn]
  | complete hr hb hf hn => simp [hr, hb, hf, Nat.not_lt.mpr hn]
  | nop hr hb _ hc => simp [hr, hb, hc]
  | init hr hb _ hc => simp [hr, hb, hc]
  | compress hr hb hv hc => simp [hr, hb, hv, hc]
  | reserved hr hb _ hc => simp [hr, hb, hc]
  | idle hr hb hv => simp [hr, hb, hv]

/-- Settles O15: INIT and completion set `done`, the acceptance of a COMPRESS and reset clear it. -/
theorem doneBitRule : Obligations.DoneBitRule := by
  intro s s' p h
  cases EdgeTo.of_edge h with
  | reset hr => simp [hr]
  | countDown hr hb hf hn => simp [hr, hb, hf, Nat.not_le.mpr hn]
  | complete hr hb hf hn => simp [hr, hb, hf, hn]
  | nop hr hb _ hc => simp [hr, hb, hc]
  | init hr hb hv hc => simp [hr, hb, hv, hc]
  | compress hr hb hv hc => simp [hr, hb, hv, hc]
  | reserved hr hb _ hc => simp [hr, hb, hc]
  | idle hr hb hv => simp [hr, hb, hv]

/-- Settles O16: the reserved command alone sets `cmd_err`, reset alone clears it. -/
theorem cmdErrBitRule : Obligations.CmdErrBitRule := by
  intro s s' p h
  cases EdgeTo.of_edge h with
  | reset hr => simp [hr]
  | countDown hr hb => simp [hr, hb]
  | complete hr hb => simp [hr, hb]
  | nop hr _ _ hc => simp [hr, hc]
  | init hr _ _ hc => simp [hr, hc]
  | compress hr _ _ hc => simp [hr, hc]
  | reserved hr hb hv hc => simp [hr, hb, hv, hc]
  | idle hr _ hv => simp [hr, hv]

/-- Settles O17: INIT alone sets `hdef`, reset alone clears it. -/
theorem hdefFlagRule : Obligations.HdefFlagRule := by
  intro s s' p h
  cases EdgeTo.of_edge h with
  | reset hr => simp [hr]
  | countDown hr hb => simp [hr, hb]
  | complete hr hb => simp [hr, hb]
  | nop hr _ _ hc => simp [hr, hc]
  | init hr hb hv hc => simp [hr, hb, hv, hc]
  | compress hr _ _ hc => simp [hr, hc]
  | reserved hr _ _ hc => simp [hr, hc]
  | idle hr _ hv => simp [hr, hv]

/-- Settles O18: INIT and the fold-back write DigestState, every other edge without a reset keeps it. -/
theorem digestStateWrites : Obligations.DigestStateWrites := by
  intro s s' p h hrst
  cases EdgeTo.of_edge h with
  | reset hr => simp [hr] at hrst
  | init _ hb hv hc => exact .inl ⟨hb, hv, hc, by simp⟩
  | complete _ hb => exact .inr (.inl ⟨hb, by simp, completeCompress_H_eq_fold s⟩)
  | countDown => exact .inr (.inr (by simp))
  | compress => exact .inr (.inr (by simp))
  | reserved => exact .inr (.inr (by simp))
  | nop => exact .inr (.inr rfl)
  | idle => exact .inr (.inr rfl)

/-- Settles O13: the values of R36, read off State.reset. -/
theorem resetStateValues : Obligations.ResetStateValues :=
  ⟨rfl, rfl, rfl, rfl, rfl, rfl⟩

/-- The three bits of the packed status word (R34). -/
theorem packed_status_bits : ∀ cmdErr done busy : Bool,
    let status : BitVec 3 := BitVec.ofBool cmdErr ++ BitVec.ofBool done ++ BitVec.ofBool busy
    status[0] = busy ∧ status[1] = done ∧ status[2] = cmdErr := by
  decide

/-- Settles O19: each bit of the packed word stands where R34 puts it. -/
theorem statusPorts : Obligations.StatusPorts := by
  intro s
  obtain ⟨hbusy, hdone, hcmdErr⟩ := packed_status_bits s.cmdErr s.done s.busy
  exact ⟨rfl, hbusy, hdone, hcmdErr, rfl⟩

end Sys2Proof.Machine
end

section
/-! SUPPORT. The cycle-level engine and the transaction-level engine (10_state R35, R37; 92_eei_decisions D39;
93_implementation_defined U2). -/

namespace Sys2Proof.Machine

/-! ### One edge -/

/-- The acceptance of a command agrees with the transaction level, with the drawn latency (R101 to R105, log 5). -/
theorem txOutcome_exec (i : Instr) (s : State) :
    txOutcome (exec i s) = txAccept (compressLatency s.draws) i (txView s) := by
  cases i with
  | nop => rfl
  | init => simp [exec, execInit, txOutcome, txAccept, txView]
  | compress blk =>
    cases hd : s.hdef with
    | true => simp [exec_compress_of_hdef blk hd, txOutcome, txAccept, txView, hd]
    | false => simp [exec, execCompress, txOutcome, txAccept, txView, hd]
  | reserved => simp [exec, execReserved, txOutcome, txAccept, txView]

/-- An edge of a coherent COMPRESS in flight agrees with the transaction level: the 64 rounds and the fold-back are
`Compress(H, blk)` (R104, R174). -/
theorem txOutcome_progress {s : State} (h : ∀ f, s.inflight = some f → FlightCoherent s f) :
    txOutcome (progress s) = txProgress (txView s) := by
  cases hf : s.inflight with
  | none => simp [progress, txProgress, txOutcome, txView, hf]
  | some f =>
    by_cases hn : 1 < f.remaining
    · simp [progress_before_last hf hn, txProgress, txOutcome, txView, hf, hn]
    · have hH := completeCompress_H (h f hf)
      cases hd : s.hdef <;>
        simp [progress_last hf (Nat.not_lt.mp hn), txProgress, txOutcome, txView, hf, hn, hH, hd]

/-- Settles O32, along the priority of R100. -/
theorem transactionLevelAgreement : Obligations.TransactionLevelAgreement := by
  intro s p h
  cases hr : p.rst with
  | true => simp [edge, txEdge, txOutcome, txView, hr]
  | false =>
    cases hb : s.busy with
    | true => rw [edge_of_busy hr hb, txOutcome_progress h.flight]; simp [txEdge, hr, txView, hb]
    | false =>
      cases hv : p.cmdValid with
      | true => simpa [edge, txEdge, hr, hv, txView, hb] using txOutcome_exec (decode p.cmd p.blockIn) s
      | false => simp [edge, txEdge, txOutcome, txView, hr, hb, hv]

/-! ### What an edge does to the model's own fields -/

/-- An edge uses no sample but the one it is given (log 1). -/
theorem edge_inputs {p : PortSample} {s s' : State} (h : edge p s = .next s') : s'.inputs = s.inputs := by
  cases EdgeTo.of_edge h <;> simp

/-- The counter of the free values moves at a reset edge and where `busy` changes (log 4, log 5, log 8, log 12). -/
theorem edge_draws {p : PortSample} {s s' : State} (h : edge p s = .next s') :
    s'.draws = if p.rst = true ∨ s'.busy ≠ s.busy then s.draws + 1 else s.draws := by
  cases EdgeTo.of_edge h with
  | reset hr => simp [hr]
  | countDown hr => simp [hr]
  | complete hr hb => simp [hr, hb]
  | compress hr hb => simp [hr, hb]
  | init hr => simp [hr]
  | reserved hr => simp [hr]
  | nop hr => simp [hr]
  | idle hr => simp [hr]

/-! ### States that no run tells apart -/

/-- Two states that agree at transaction level and in the model's own fields. -/
structure TxAgree (u v : State) : Prop where
  inv_left : u.Inv
  inv_right : v.Inv
  view : txView u = txView v
  draws : u.draws = v.draws
  inputs : u.inputs = v.inputs

theorem TxAgree.nextSample_eq {u v : State} (h : TxAgree u v) : nextSample u = nextSample v := by
  rw [nextSample, h.inputs, nextSample]

/-- They show the same outcome of a step. -/
theorem TxAgree.txOutcome_step {u v : State} (h : TxAgree u v) : txOutcome (step u) = txOutcome (step v) := by
  have hu := transactionLevelAgreement (dropSample u) (nextSample u) h.inv_left.inv_dropSample
  have hv := transactionLevelAgreement (dropSample v) (nextSample v) h.inv_right.inv_dropSample
  have hview : txView (dropSample u) = txView (dropSample v) := h.view
  rw [step, step, hu, hv, h.nextSample_eq, hview, dropSample_draws, dropSample_draws, h.draws]

/-- The states they step to agree again. -/
theorem TxAgree.of_step {u v u' v' : State} (h : TxAgree u v) (hu : step u = .next u') (hv : step v = .next v') :
    TxAgree u' v' := by
  have hview : txView u' = txView v' := by simpa [hu, hv, txOutcome] using h.txOutcome_step
  have hbusy : u.busy = v.busy := congrArg TxState.busy h.view
  have hbusy' : u'.busy = v'.busy := congrArg TxState.busy hview
  refine ⟨invariantKeptByStep u u' h.inv_left hu, invariantKeptByStep v v' h.inv_right hv, hview, ?_, ?_⟩
  · rw [edge_draws hu, edge_draws hv]
    simp [h.draws, hbusy, hbusy', h.nextSample_eq]
  · rw [edge_inputs hu, edge_inputs hv, dropSample_inputs, dropSample_inputs, h.inputs]

/-- Outcomes that look the same at transaction level still do after going on, if their next states go on alike. -/
theorem txOutcome_andThen_congr {x y : Host.Outcome State Fault Refusal}
    {k : State → Host.Outcome State Fault Refusal} (hxy : txOutcome x = txOutcome y)
    (hk : ∀ a b, x = .next a → y = .next b → txOutcome (k a) = txOutcome (k b)) :
    txOutcome (andThen x k) = txOutcome (andThen y k) := by
  cases x with
  | next a =>
    cases y with
    | next b => exact hk a b rfl rfl
    | fault r => simp [txOutcome] at hxy
    | refused r => simp [txOutcome] at hxy
  | fault r =>
    cases y with
    | fault r' => exact hxy
    | next b => simp [txOutcome] at hxy
    | refused r' => simp [txOutcome] at hxy
  | refused r =>
    cases y with
    | refused r' => exact hxy
    | next b => simp [txOutcome] at hxy
    | fault r' => simp [txOutcome] at hxy

/-- No run tells them apart. -/
theorem TxAgree.txOutcome_runSteps {u v : State} (h : TxAgree u v) (n : Nat) :
    txOutcome (runSteps n u) = txOutcome (runSteps n v) := by
  induction n generalizing u v with
  | zero => exact congrArg Host.Outcome.next h.view
  | succ n ih => exact txOutcome_andThen_congr h.txOutcome_step fun _ _ hu hv => ih (h.of_step hu hv)

/-- Settles O33: with nothing in flight `a..h`, `W` and `t` are in no view and under no clause of the invariant. -/
theorem idleInternalsUnobservable : Obligations.IdleInternalsUnobservable := by
  intro s work W t n h hb
  have hinv : { s with work := work, W := W, t := t }.Inv := .of_idle hb (h.inflight_of_idle hb) h.done_defined
  have hagree : TxAgree { s with work := work, W := W, t := t } s := ⟨hinv, h, rfl, rfl, rfl⟩
  exact hagree.txOutcome_runSteps n

end Sys2Proof.Machine
end

section
/-! SUPPORT. The step of one engine among several (20_memory R66, 60_exceptions R230). -/

namespace Sys2Proof.Machine

theorem stepInstance_of_none {k : Nat} {es : List State} (h : es[k]? = none) : stepInstance k es = .next es := by
  simp [stepInstance, h]

theorem stepInstance_of_some {k : Nat} {es : List State} {s : State} (h : es[k]? = some s) :
    stepInstance k es = andThen (step s) fun s' => .next (es.set k s') := by
  simp [stepInstance, h]

/-- Everything a step of engine `k` can do: nothing where there is no such engine, else that engine's own step (R66). -/
theorem stepInstance_cases {k : Nat} {es es' : List State} (h : stepInstance k es = .next es') :
    (es[k]? = none ∧ es' = es) ∨ ∃ s s', es[k]? = some s ∧ step s = .next s' ∧ es' = es.set k s' := by
  cases hk : es[k]? with
  | none => exact .inl ⟨rfl, Host.Outcome.next.inj (h.symm.trans (stepInstance_of_none hk))⟩
  | some s =>
    obtain ⟨s', hs, hset⟩ := andThen_next ((stepInstance_of_some hk).symm.trans h)
    exact .inr ⟨s, s', rfl, hs, (Host.Outcome.next.inj hset).symm⟩

/-- The frame of a step of engine `k`: every other engine. -/
theorem stepInstance_frame {k j : Nat} {es es' : List State} (h : stepInstance k es = .next es') (hne : j ≠ k) :
    es'[j]? = es[j]? := by
  obtain ⟨-, rfl⟩ | ⟨s, s', -, -, rfl⟩ := stepInstance_cases h
  · rfl
  · exact List.getElem?_set_ne hne.symm

/-- A step of engine `j` neither reads nor writes engine `k`: putting `v` there first or afterwards is the same. -/
theorem stepInstance_set_ne {k j : Nat} (es : List State) (v : State) (hne : j ≠ k) :
    stepInstance j (es.set k v) = andThen (stepInstance j es) fun fs => .next (fs.set k v) := by
  have hj : (es.set k v)[j]? = es[j]? := List.getElem?_set_ne hne.symm
  cases h : es[j]? with
  | none => rw [stepInstance_of_none (hj.trans h), stepInstance_of_none h, andThen_of_next]
  | some s =>
    rw [stepInstance_of_some (hj.trans h), stepInstance_of_some h]
    cases step s with
    | next s' => simp only [andThen_of_next, List.set_comm _ _ hne]
    | fault r => rfl
    | refused r => rfl

/-- Two engines' steps commute (R66, R230). -/
theorem stepInstance_comm {k j : Nat} {es es' es'' : List State} (hk : stepInstance k es = .next es')
    (hj : stepInstance j es' = .next es'') (hne : j ≠ k) :
    andThen (stepInstance j es) (stepInstance k) = .next es'' := by
  obtain ⟨hnone, rfl⟩ | ⟨s, s', hsome, hs, rfl⟩ := stepInstance_cases hk
  · rw [hj, andThen_of_next, stepInstance_of_none ((stepInstance_frame hj hne.symm).trans hnone)]
  · rw [stepInstance_set_ne es s' hne] at hj
    obtain ⟨fs, hfs, hset⟩ := andThen_next hj
    have hk' : fs[k]? = some s := (stepInstance_frame hfs hne.symm).trans hsome
    rw [hfs, andThen_of_next, stepInstance_of_some hk', hs, andThen_of_next, hset]

/-- Settles O34: the frame of one engine's step, and the commuting of two. -/
theorem instancesIndependent : Obligations.InstancesIndependent :=
  fun _ _ _ _ hk hne => ⟨stepInstance_frame hk hne, fun _ hj => stepInstance_comm hk hj hne⟩

end Sys2Proof.Machine
end

section
/-! SUPPORT. Lanes of the block bus and of the digest bus (20_memory R51, R52, R53). -/

namespace Sys2Proof.Machine

/-! ### Lanes of a bit vector -/

/-- A lane of a lane is a lane of the whole. -/
theorem extractLsb'_extractLsb' {w : Nat} (x : BitVec w) (start len : Nat) {off n : Nat} (h : off + n ≤ len) :
    (x.extractLsb' start len).extractLsb' off n = x.extractLsb' (start + off) n := by
  refine BitVec.eq_of_getLsbD_eq fun i hi => ?_
  have hlen : off + i < len := by omega
  simp [hi, hlen, Nat.add_assoc]

/-! ### The block bus -/

/-- Bytes in message order as one number, the first the most significant: what `blockOfBytes` puts on the bus (R51). -/
def bytesToNat (bs : List Byte) : Nat := bs.foldl (fun acc b => acc * 256 + b.toNat) 0

theorem blockOfBytes_eq (bs : List Byte) : blockOfBytes bs = BitVec.ofNat 512 (bytesToNat bs) := rfl

theorem bytesToNat_concat (bs : List Byte) (b : Byte) :
    bytesToNat (bs ++ [b]) = 2 ^ 8 * bytesToNat bs + b.toNat := by
  simp [bytesToNat, Nat.mul_comm]

/-- Bit `i` of byte `j` stands above the `8 * (length - 1 - j)` bits of the bytes after it. -/
theorem testBit_bytesToNat (bs : List Byte) (j i : Nat) (hj : j < bs.length) (hi : i < 8) :
    (bytesToNat bs).testBit (8 * (bs.length - 1 - j) + i) = bs[j].getLsbD i := by
  induction bs using List.reverseRecOn with
  | nil => exact absurd hj (Nat.not_lt_zero j)
  | append_singleton bs b ih =>
    simp only [List.length_append, List.length_singleton] at hj
    rw [bytesToNat_concat, Nat.testBit_two_pow_mul_add _ b.isLt, List.length_append, List.length_singleton]
    by_cases hlast : j = bs.length
    · subst hlast
      simp [hi, BitVec.testBit_toNat]
    · have hj' : j < bs.length := by omega
      rw [if_neg (by omega), List.getElem_append_left hj', ← ih hj']
      congr 1
      omega

/-- An operand word is the big-endian word of its four byte lanes (R51, R72). -/
theorem blockWord_eq_be32 (blk : Block) (i : Fin 16) :
    blockWord blk i = be32 (blockByte blk ⟨4 * i.val, by omega⟩) (blockByte blk ⟨4 * i.val + 1, by omega⟩)
      (blockByte blk ⟨4 * i.val + 2, by omega⟩) (blockByte blk ⟨4 * i.val + 3, by omega⟩) := by
  simp only [blockWord, be32, blockByte]
  rw [BitVec.extractLsb'_append_extractLsb'_eq_extractLsb' (by omega),
    BitVec.extractLsb'_append_extractLsb'_eq_extractLsb' (by omega),
    BitVec.extractLsb'_append_extractLsb'_eq_extractLsb' (by omega)]
  congr 1
  omega

/-- Byte lane `j` of a block given by its bytes is the `j`-th of them (R51). -/
theorem blockByte_blockOfBytes (bs : List Byte) (h : bs.length = 64) (j : Fin 64) :
    blockByte (blockOfBytes bs) j = bs[j.val] := by
  refine BitVec.eq_of_getLsbD_eq fun i hi => ?_
  have hbit : 504 - 8 * j.val + i < 512 := by omega
  have hpos : 504 - 8 * j.val + i = 8 * (bs.length - 1 - j.val) + i := by omega
  rw [← testBit_bytesToNat bs j.val i (by omega) hi, ← hpos]
  simp only [blockByte, blockOfBytes_eq, BitVec.getLsbD_extractLsb', BitVec.getLsbD_ofNat, hi, hbit, decide_true,
    Bool.true_and]

/-- Settles O37: the byte lanes hold the bytes in message order, and the operand words are made of those lanes. -/
theorem blockBusLayout : Obligations.BlockBusLayout := by
  intro bs h
  refine ⟨blockByte_blockOfBytes bs h, fun i => ⟨rfl, ?_⟩⟩
  simp only [blockWord_eq_be32, blockByte_blockOfBytes bs h]

/-! ### The digest bus -/

/-- The word lane of `digest_out` that `H[i]` takes (R52). -/
theorem packDigest_word (H : Vector Word 8) (i : Nat) (hi : i < 8) :
    (packDigest H).extractLsb' (224 - 32 * i) 32 = H[i] := by
  -- The width as the sum of the words' widths, which the lemmas about `++` match on.
  change BitVec.extractLsb' (n := 32 + 32 + 32 + 32 + 32 + 32 + 32 + 32) _ _ (_ ++ _) = _
  interval_cases i <;>
    simp only [BitVec.extractLsb'_append_eq_of_le, BitVec.extractLsb'_append_eq_right, BitVec.extractLsb'_eq_self,
      Nat.reduceMul, Nat.reduceSub, Nat.reduceLeDiff]

/-- The byte lane `k` of `digest_out` lies in the word lane `k / 4` (R52). -/
theorem packDigest_byte (H : Vector Word 8) (k : Nat) (hk : k < 32) :
    (packDigest H).extractLsb' (248 - 8 * k) 8 = (H[k / 4]'(by omega)).extractLsb' (24 - 8 * (k % 4)) 8 := by
  rw [← packDigest_word H (k / 4) (by omega), extractLsb'_extractLsb' _ _ _ (by omega)]
  congr 1
  omega

/-- Settles O38: a defined DigestState is what `digest_out` shows, and its lanes are those of the packed words. -/
theorem digestBusLayout : Obligations.DigestBusLayout := by
  intro s hd
  rw [digestOut_of_hdef hd]
  exact ⟨fun i => packDigest_word s.H i.val i.isLt, fun k => packDigest_byte s.H k.val k.isLt⟩

end Sys2Proof.Machine
end

section
/-! SUPPORT. Sampling `digest_out` (20_memory R55, 10_state R29). -/

namespace Sys2Proof.Machine

theorem noteRead_of_hdef {s : State} (h : s.hdef = true) : noteRead s = s := by
  simp [noteRead, h]

/-- At most the model's counter of draws moves (log 9). -/
theorem noteRead_eq_draws (s : State) : noteRead s = { s with draws := (noteRead s).draws } := by
  unfold noteRead
  split <;> rfl

/-- The counter of draws is no part of the transaction-level state (R37). -/
theorem txView_noteRead (s : State) : txView (noteRead s) = txView s := by
  rw [noteRead_eq_draws]
  rfl

theorem noteRead_restore_draws (s : State) : { noteRead s with draws := s.draws } = s := by
  rw [noteRead_eq_draws]

/-- Settles O30: READ answers with `noteRead`, which moves at most the counter of draws. -/
theorem readingChangesNothing : Obligations.ReadingChangesNothing :=
  fun r _ => ⟨_, rfl, rfl, txView_noteRead r.engine, noteRead_restore_draws r.engine, noteRead_of_hdef⟩

end Sys2Proof.Machine
end

section
/-! SUPPORT. The commands and the transactions they stand for (30_encoding R70 to R75; log 13). -/

namespace Sys2Proof.Machine

/-! ### Codes and formats -/

/-- Format CB belongs to one code (R71). -/
theorem format_eq_cb_iff (i : Instr) : i.format = .cb ↔ opcode i = 0b10#2 := by
  cases i <;> simp [Instr.format, opcode]

theorem decode_format_eq_cb_iff (c : Cmd) (blk : Block) : (decode c blk).format = .cb ↔ c = 0b10#2 := by
  rw [format_eq_cb_iff, opcode_decode]

/-- A command's code decodes to it; only in format CB does `block_in` have to carry its operand (R71, R73). -/
theorem decode_opcode {i : Instr} {blk : Block} (h : i.format = .cb → blk = operandBlock i) :
    decode (opcode i) blk = i := by
  cases i with
  | nop => exact Laws.BlockPort.nop blk
  | init => exact Laws.BlockPort.init blk
  | compress b =>
    rw [h rfl]
    exact Laws.BlockPort.compress b
  | reserved => exact Laws.BlockPort.reserved blk

/-- What decodes to a command of format CB has that command's operand on `block_in` (R71). -/
theorem operandBlock_decode {c : Cmd} {blk : Block} (h : (decode c blk).format = .cb) :
    operandBlock (decode c blk) = blk := by
  obtain rfl := (decode_format_eq_cb_iff c blk).mp h
  rfl

/-- Under every code but COMPRESS's the decoder does not read `block_in` (R71). -/
theorem decode_congr_block {c : Cmd} (hc : c ≠ 0b10#2) (blk blk' : Block) : decode c blk = decode c blk' := by
  have h : decode (opcode (decode c blk')) blk = decode c blk' :=
    decode_opcode fun hcb => absurd ((decode_format_eq_cb_iff c blk').mp hcb) hc
  rwa [opcode_decode] at h

/-! ### Numbers as transactions -/

/-- A command's own transaction decodes to it. -/
theorem decodeWord_encode (i : Instr) : decodeWord (encode i).toNat = .ok i := by
  rw [decodeWord_of_toNat, encode, cmd_append, blockIn_append, decode_opcode fun _ => rfl]

/-- A transaction that decodes to a command of format CB is that command's own. -/
theorem encode_decode {w : Transaction} (h : (decode (Transaction.cmd w) (Transaction.blockIn w)).format = .cb) :
    encode (decode (Transaction.cmd w) (Transaction.blockIn w)) = w := by
  rw [encode, operandBlock_decode h, opcode_decode, blockIn_append_cmd]

theorem shiftRight_ne_zero {n k : Nat} (h : 2 ^ k ≤ n) : n >>> k ≠ 0 := by
  rw [Nat.shiftRight_eq_div_pow]
  exact (Nat.div_pos h (Nat.two_pow_pos k)).ne'

/-- A number with a bit above the two ports is no transaction. -/
theorem decodeWord_of_le {n : Nat} (h : 2 ^ 514 ≤ n) : decodeWord n = .error .widerThanPorts := by
  rw [decodeWord, if_neg (shiftRight_ne_zero h)]

theorem toNat_zero_append {v : Nat} (x : BitVec v) (w : Nat) : (0#w ++ x).toNat = x.toNat := by
  rw [BitVec.toNat_append, BitVec.toNat_zero, Nat.zero_shiftLeft, Nat.zero_or]

/-- A 2-bit word of the table is a code with the zero block above it (log 13). -/
theorem decodeTableWord_toNat (c : Cmd) : decodeTableWord 2 c.toNat = some (decode c 0) := by
  have hw : c.toNat % 2 ^ 2 = BitVec.toNat (w := 514) ((0 : Block) ++ c) :=
    (Nat.mod_eq_of_lt c.isLt).trans (toNat_zero_append c 512).symm
  rw [decodeTableWord, hw, decodeWord_of_toNat, cmd_append, blockIn_append]
  rfl

/-! ### The statements -/

/-- Settles O36: a command is read back from its code and operand, and a transaction is its two fields. -/
theorem decodeEncodeAgree : Obligations.DecodeEncodeAgree :=
  ⟨fun i _ => decodeWord_encode i, fun w => ⟨_, decodeWord_of_toNat w, opcode_decode _ _, encode_decode⟩,
    fun _ => decodeWord_of_le⟩

/-- Settles O11: an edge reads `block_in` through the decoder alone. -/
theorem formatCIgnoresBlock : Obligations.FormatCIgnoresBlock := by
  refine ⟨decode_format_eq_cb_iff, fun _ => rfl, fun s p blk hc => ?_⟩
  simp only [edge, decode_congr_block hc blk p.blockIn]

/-- Settles O35: each word of the table is one of the four codes. -/
theorem tableWordsDecode : Obligations.TableWordsDecode :=
  ⟨decodeTableWord_toNat 0b00#2, decodeTableWord_toNat 0b01#2, decodeTableWord_toNat 0b10#2,
    decodeTableWord_toNat 0b11#2, rfl⟩

end Sys2Proof.Machine
end

section
/-! SUPPORT. The edge and the step, one equation per branch of the priority (41_commands R100, R106; 20_memory R55). -/

namespace Sys2Proof.Machine

/-! ### The edge -/

theorem edge_of_reset {p : PortSample} (s : State) (hp : p.rst = true) : edge p s = .next (resetEdge s) := by
  simp [edge, hp]

/-- An offer made with nothing in flight is accepted (R100). -/
theorem edge_of_offer {p : PortSample} {s : State} (hp : p.rst = false) (hb : s.busy = false)
    (hv : p.cmdValid = true) : edge p s = exec (decode p.cmd p.blockIn) s := by
  simp [edge, hp, hb, hv]

/-- Nothing offered and nothing in flight: nothing changes (R100). -/
theorem edge_of_no_offer {p : PortSample} {s : State} (hp : p.rst = false) (hb : s.busy = false)
    (hv : p.cmdValid = false) : edge p s = .next s := by
  simp [edge, hp, hb, hv]

/-- Settles O7, one equation per clause. -/
theorem edgePriority : Obligations.EdgePriority :=
  fun _ s => ⟨edge_of_reset s, edge_of_busy, edge_of_offer, edge_of_no_offer⟩

/-- While busy the edge does not look at the offer (R106). -/
theorem edge_congr_of_busy {p q : PortSample} {s : State} (hb : s.busy = true) (hp : p.rst = false)
    (hq : q.rst = false) : edge p s = edge q s := by
  rw [edge_of_busy hp hb, edge_of_busy hq hb]

/-- Settles O9: `cmd_ready` is `not busy`, and `Progress()` takes no sample. -/
theorem offersWhileBusyHaveNoEffect : Obligations.OffersWhileBusyHaveNoEffect :=
  fun s _ _ hb hp hq => ⟨by simp [cmdReady, hb], edge_congr_of_busy hb hp hq⟩

/-- The two fields of a command's own transaction decode to it. -/
theorem decode_encode (i : Instr) : decode (Transaction.cmd (encode i)) (Transaction.blockIn (encode i)) = i :=
  Except.ok.inj ((decodeWord_of_toNat (encode i)).symm.trans (decodeWord_encode i))

/-- A command's own transaction, offered with nothing in flight, runs that command (R73, R100). -/
theorem edge_offer_encode (i : Instr) {s : State} (hb : s.busy = false) :
    edge (offerSample (encode i)) s = exec i s := by
  rw [edge_of_offer rfl hb rfl]
  exact congrArg (exec · s) (decode_encode i)

/-! ### The step -/

theorem step_of_inputs_cons {s : State} {p : PortSample} {rest : List PortSample} (h : s.inputs = p :: rest) :
    step s = edge p { s with inputs := rest } := by
  simp [step, nextSample, dropSample, h]

/-- A sample the host drives next is the one the step uses, and the samples behind it are left (log 2). -/
theorem step_offerNext (p : PortSample) (s : State) : step (offerNext p s) = edge p s :=
  step_of_inputs_cons (offerNext_inputs s p)

theorem dropSample_of_inputs_nil {s : State} (h : s.inputs = []) : dropSample s = s := by
  cases s
  obtain rfl : _ = [] := h
  rfl

/-- With no sample left the host is idle (log 1). -/
theorem step_of_inputs_nil {s : State} (h : s.inputs = []) : step s = edge idleSample s := by
  rw [step, dropSample_of_inputs_nil h, nextSample, h]
  rfl

/-- Settles O8: the step is the edge under the head sample, and that edge accepts what it offers. -/
theorem stepRunsDecodedCommand : Obligations.StepRunsDecodedCommand := by
  refine ⟨fun s p rest hi hr hv hb => ?_, fun s i _ hb => ?_, fun s hi hb => ?_⟩
  · rw [step_of_inputs_cons hi]
    exact edge_of_offer hr hb hv
  · exact (step_offerNext _ s).trans (edge_offer_encode i hb)
  · rw [step_of_inputs_nil hi]
    exact edge_of_no_offer rfl hb rfl

end Sys2Proof.Machine
end

section
/-! SUPPORT. The four commands at their acceptance edge (41_commands R101, R102, R103, R105). -/

namespace Sys2Proof.Machine

/-! ### What each command answers -/

theorem exec_nop (s : State) : exec .nop s = .next s := rfl

theorem exec_init (s : State) : exec .init s = .next (setDone (loadIv s)) := rfl

theorem exec_reserved (s : State) : exec .reserved s = .next (latchCmdErr s) := rfl

/-- COMPRESS where DigestState is not defined (R103). -/
theorem exec_compress_of_not_hdef (blk : Block) {s : State} (h : s.hdef = false) :
    exec (.compress blk) s = .fault .uninitialisedDigest := by
  simp [exec, execCompress, h]

/-! ### The statements -/

/-- Settles O1: code 00 is NOP whatever stands on `block_in`. -/
theorem nopCompletesUnchanged : Obligations.NopCompletesUnchanged := by
  intro s blk
  rw [show decode 0b00#2 blk = .nop from Laws.BlockPort.nop blk]
  exact exec_nop s

/-- The example of R102. -/
theorem packDigest_ivRom :
    packDigest ivRom = 0x6a09e667bb67ae853c6ef372a54ff53a510e527f9b05688c1f83d9ab5be0cd19 := by
  decide

/-- INIT is idempotent (R102). -/
theorem exec_init_idempotent (s : State) : exec .init (setDone (loadIv s)) = .next (setDone (loadIv s)) := rfl

/-- Settles O2: INIT is `loadIv` and `setDone`, and a second one writes what is there. -/
theorem initCompletes : Obligations.InitCompletes := by
  intro s blk
  rw [show decode 0b01#2 blk = .init from Laws.BlockPort.init blk]
  refine ⟨_, exec_init s, rfl, exec_init_idempotent s, ?_⟩
  rw [digestOut_of_hdef (by simp), setDone_H, loadIv_H, packDigest_ivRom]

/-- Settles O3: with DigestState defined COMPRESS loads and launches, otherwise it faults. -/
theorem compressAccepted : Obligations.CompressAccepted := by
  intro s blk
  rw [show decode 0b10#2 blk = .compress blk from Laws.BlockPort.compress blk]
  refine ⟨fun hd => ?_, exec_compress_of_not_hdef blk⟩
  have hflight := launch_flightFrom blk s
  refine ⟨_, _, exec_compress_of_hdef blk hd, hflight.coherent.edge_left, fun i => ?_, fun j hj => ?_, ?_, ?_,
    hflight.busy, hflight.done, hflight.inflight, hflight.digest, hflight.cmdErr, hflight.hdef, ?_,
    hflight.digestOut_eq hd, fun _ _ => edge_congr_of_busy hflight.busy⟩
  · simp only [launch_W, loadWorking_W, loadSchedule_W]
    exact loadWords_block blk s.W i.val i.isLt
  · simp only [launch_W, loadWorking_W, loadSchedule_W]
    exact loadWords_rest blk s.W j.val j.isLt hj
  · simp [workOfDigest]
  · simp
  · simp

/-- Settles O4: the acceptance latches `cmd_err` alone; while busy there is none, and R28 keeps the bit. -/
theorem reservedCompletes : Obligations.ReservedCompletes := by
  refine ⟨fun s blk => ?_, fun s s' p hb hp _ he => ?_⟩
  · rw [show decode 0b11#2 blk = .reserved from Laws.BlockPort.reserved blk]
    exact ⟨_, exec_reserved s, rfl, exec_reserved _⟩
  · have hrule := cmdErrBitRule s s' p he
    simpa [hb, hp, ← Bool.eq_iff_iff] using hrule

/-- Settles O5: of the allowed commands none latches `cmd_err`, and COMPRESS has its DigestState. -/
theorem allowedCommandsAreSafe : Obligations.AllowedCommandsAreSafe := by
  intro i s hallowed hclear
  cases i with
  | nop => exact hclear
  | init => simpa [exec_init, safeOutcome, State.noFaultBit] using hclear
  | compress blk =>
    have hd : s.hdef = true := hallowed
    simpa [exec_compress_of_hdef blk hd, safeOutcome, State.noFaultBit] using hclear
  | reserved => simp [commandAllowed] at hallowed

end Sys2Proof.Machine
end

section
/-! SUPPORT. The two kinds of edge of a COMPRESS in flight: before its last, and its last (41_commands R104; 44_fold R172,
R174). -/

namespace Sys2Proof.Machine

/-- A round and a count-down show at no output port (R21, R60). -/
theorem outputs_countDown_roundEdge (s : State) : outputs (countDown (roundEdge s)) = outputs s := by
  simp [outputs, cmdReady, digestOut]

/-- Settles O23: such an edge is a round and a count-down. -/
theorem progressShowsNothing : Obligations.ProgressShowsNothing := by
  intro s p f hp hb hf hn
  exact ⟨_, (edge_of_busy hp hb).trans (progress_before_last hf hn), by simp [hf], outputs_countDown_roundEdge s,
    by simp, by simp, by simp⟩

/-- What is in flight makes the engine busy (R38). -/
theorem State.Inv.busy_of_inflight {s : State} {f : InFlight} (h : s.Inv) (hf : s.inflight = some f) :
    s.busy = true := by
  simpa [hf] using h.busy_iff_inflight

/-- A state that meets the invariant is itself in the flight it holds. -/
theorem State.Inv.flightFrom_self {s : State} {f : InFlight} (h : s.Inv) (hf : s.inflight = some f) :
    FlightFrom s f s where
  coherent := h.flight f hf
  inflight := hf
  busy := h.busy_of_inflight hf
  done := by simpa [h.busy_of_inflight hf] using h.not_busy_and_done
  cmdErr := rfl
  hdef := rfl
  digest := rfl

/-- Settles O24: the coherence of the flight makes the fold-back `Compress(H, blk)`. -/
theorem completionWritesCompress : Obligations.CompletionWritesCompress := by
  intro s p f h hp hf hlast
  have hc := h.flight f hf
  have hb := h.busy_of_inflight hf
  have hH := completeCompress_H hc
  refine ⟨_, (edge_of_busy hp hb).trans (progress_last hf hlast.le), hH, ?_, by simp, by simp, by simp, by simp,
    by simp, by simp, ?_⟩
  · rw [completeCompress_work, finishRounds_working hc]
  · rw [digestOut_of_hdef (by simpa using h.busy_defined hb), hH]

end Sys2Proof.Machine
end

section
/-! SUPPORT. The helper notions for a host script: what DigestState will be once nothing is in flight, and the chain of a
message under way (30_encoding R78, R79; 41_commands R104, R107). -/

namespace Sys2Proof.Machine

/-- DigestState once what is in flight, if anything, has completed (R104). -/
def pendingDigest (s : State) : Vector Word 8 :=
  match s.inflight with
  | none => s.H
  | some f => compress s.H f.blk

/-- `t` is what `s` comes to when whatever is in flight in `s` has completed. -/
structure DrainsTo (s t : State) : Prop where
  inv : t.Inv
  idle : t.busy = false
  digest : t.H = pendingDigest s
  done : t.done = (s.busy || s.done)
  cmdErr : t.cmdErr = s.cmdErr
  hdef : t.hdef = s.hdef

/-- The engine has the chain value `H` of a message, or will have it when what is in flight completes; `e` is the value
of `cmd_err`. -/
structure Chains (e : Bool) (H : Vector Word 8) (s : State) : Prop where
  inv : s.Inv
  hdef : s.hdef = true
  digest : pendingDigest s = H
  result : (s.busy || s.done) = true
  cmdErr : s.cmdErr = e

end Sys2Proof.Machine
end

section
/-! SUPPORT. A host that waits, offers and reads (30_encoding R78, R79; 41_commands R106, R107; 44_fold R175; log 20). -/

namespace Sys2Proof.Machine

/-! ### Waiting for a COMPRESS in flight -/

theorem driveEdges_succ_of_edge {p : PortSample} {s s' : State} (h : edge p s = .next s') (n : Nat) :
    driveEdges p (n + 1) s = driveEdges p n s' := by
  simp [driveEdges, h]

/-- Under one sample without a reset, a flight with `n + 1` edges left completes at the last of them (R104, R106). -/
theorem FlightFrom.driveEdges_complete {p : PortSample} {s v : State} {blk : Block} {n : Nat} (hp : p.rst = false)
    (h : FlightFrom s ⟨blk, n + 1⟩ v) :
    ∃ w, FlightFrom s ⟨blk, 1⟩ w ∧ driveEdges p (n + 1) v = .next (completeCompress w) := by
  have hedge := edge_of_busy hp h.busy
  induction n generalizing v with
  | zero => exact ⟨v, h, driveEdges_succ_of_edge (hedge.trans (progress_last h.inflight (Nat.le_refl 1))) 0⟩
  | succ n ih =>
    have hlt : 1 < n + 1 + 1 := by omega
    have hnext := h.flight_countDown hlt
    rw [driveEdges_succ_of_edge (hedge.trans (progress_before_last h.inflight hlt))]
    exact ih hnext (edge_of_busy hp hnext.busy)

/-- The edges a host waits are those its flight has left (R104). -/
theorem FlightFrom.edgesLeft_eq {s v : State} {f : InFlight} (h : FlightFrom s f v) : edgesLeft v = f.remaining := by
  simp [edgesLeft, h.busy, h.inflight, h.coherent.edge_left]

theorem pendingDigest_of_none {s : State} (h : s.inflight = none) : pendingDigest s = s.H := by
  simp [pendingDigest, h]

theorem pendingDigest_of_some {s : State} {f : InFlight} (h : s.inflight = some f) :
    pendingDigest s = compress s.H f.blk := by
  simp [pendingDigest, h]

/-- The completion edge of its flight is what a state drains to. -/
theorem FlightFrom.drainsTo_complete {s w : State} {f : InFlight} {n : Nat} (h : FlightFrom s ⟨f.blk, n⟩ w)
    (hs : s.Inv) (hf : s.inflight = some f) : DrainsTo s (completeCompress w) where
  inv := .of_idle (by simp) (by simp) (by simpa [h.hdef] using hs.busy_defined (hs.busy_of_inflight hf))
  idle := by simp
  digest := by rw [completeCompress_H h.coherent, h.digest, pendingDigest_of_some hf]
  done := by simp [hs.busy_of_inflight hf]
  cmdErr := by simp [h.cmdErr]
  hdef := by simp [h.hdef]

/-- With nothing in flight there is nothing to wait for. -/
theorem State.Inv.drainsTo_self {s : State} (h : s.Inv) (hb : s.busy = false) : DrainsTo s s where
  inv := h
  idle := hb
  digest := (pendingDigest_of_none (h.inflight_of_idle hb)).symm
  done := by simp [hb]
  cmdErr := rfl
  hdef := rfl

/-- Under any sample without a reset, the edges that are left drain the engine (R104, R106). -/
theorem State.Inv.driveEdges_edgesLeft {p : PortSample} {s : State} (h : s.Inv) (hp : p.rst = false) :
    ∃ t, DrainsTo s t ∧ driveEdges p (edgesLeft s) s = .next t := by
  cases hf : s.inflight with
  | none =>
    have hb : s.busy = false := by simpa [hf] using h.busy_iff_inflight
    exact ⟨s, h.drainsTo_self hb, by simp [edgesLeft, hb, driveEdges]⟩
  | some f =>
    have hflight := h.flightFrom_self hf
    obtain ⟨n, hn⟩ := Nat.exists_add_one_eq.mpr hflight.coherent.edge_left
    obtain ⟨w, hw, hrun⟩ := FlightFrom.driveEdges_complete (blk := f.blk) (n := n) hp (by rw [hn]; exact hflight)
    refine ⟨_, hw.drainsTo_complete h hf, ?_⟩
    rw [hflight.edgesLeft_eq, ← hn, hrun]

/-! ### The acts of the host -/

/-- A held offer is accepted once the engine has drained (R78, R106). -/
theorem State.Inv.offerUntilTaken_encode {s : State} (h : s.Inv) (i : Instr) :
    ∃ t, DrainsTo s t ∧ offerUntilTaken (offerSample (encode i)) s = exec i t := by
  obtain ⟨t, ht, hrun⟩ := h.driveEdges_edgesLeft (p := offerSample (encode i)) rfl
  refine ⟨t, ht, ?_⟩
  rw [offerUntilTaken, hrun, andThen_of_next, edge_offer_encode i ht.idle]

theorem runActs_cons_of_next {act : HostAct} {r r' : HostRun} (h : runAct act r = .next r') (acts : List HostAct) :
    runActs (act :: acts) r = runActs acts r' := by
  simp [runActs, h]

theorem runAct_offer_of_next {w : Transaction} {s t : State} (h : offerUntilTaken (offerSample w) s = .next t)
    (rs : List (List Char × DigestBits)) : runAct (.offer w) ⟨s, rs⟩ = .next ⟨t, rs⟩ := by
  simp [runAct, h]

/-- Waiting drains the engine (R79). -/
theorem State.Inv.runAct_wait {s : State} (h : s.Inv) (rs : List (List Char × DigestBits)) :
    ∃ t, DrainsTo s t ∧ runAct .wait ⟨s, rs⟩ = .next ⟨t, rs⟩ := by
  obtain ⟨t, ht, hrun⟩ := h.driveEdges_edgesLeft (p := idleSample) rfl
  exact ⟨t, ht, by simp [runAct, hrun]⟩

/-- Reading a defined DigestState (R55). -/
theorem runAct_read_of_hdef (name : List Char) {s : State} (hd : s.hdef = true)
    (rs : List (List Char × DigestBits)) :
    runAct (.read name) ⟨s, rs⟩ = .next ⟨s, rs ++ [(name, packDigest s.H)]⟩ := by
  simp [runAct, noteRead_of_hdef hd, digestOut_of_hdef hd]

/-! ### The chain of a message -/

/-- An INIT begins a chain at IV, whatever was in flight or chained before (R102, R107). -/
theorem State.Inv.runAct_init {s : State} (h : s.Inv) (rs : List (List Char × DigestBits)) :
    ∃ t, Chains s.cmdErr ivRom t ∧ runAct (.offer (encode .init)) ⟨s, rs⟩ = .next ⟨t, rs⟩ := by
  obtain ⟨t, ht, hrun⟩ := h.offerUntilTaken_encode .init
  have hinflight : t.inflight = none := ht.inv.inflight_of_idle ht.idle
  refine ⟨_, ?_, runAct_offer_of_next (hrun.trans (exec_init t)) rs⟩
  exact {
    inv := .of_idle (by simp [ht.idle]) (by simp [hinflight]) (by simp)
    hdef := by simp
    digest := by rw [pendingDigest_of_none (by simpa using hinflight), setDone_H, loadIv_H]
    result := by simp
    cmdErr := by simp [ht.cmdErr] }

/-- A COMPRESS extends the chain by its block (R103, R107). -/
theorem Chains.runAct_compress {e : Bool} {H : Vector Word 8} {s : State} (h : Chains e H s) (blk : Block)
    (rs : List (List Char × DigestBits)) :
    ∃ t, Chains e (compress H blk) t ∧ runAct (.offer (encode (.compress blk))) ⟨s, rs⟩ = .next ⟨t, rs⟩ := by
  obtain ⟨t, ht, hrun⟩ := h.inv.offerUntilTaken_encode (.compress blk)
  have hd : t.hdef = true := ht.hdef.trans h.hdef
  refine ⟨_, ?_, runAct_offer_of_next (hrun.trans (exec_compress_of_hdef blk hd)) rs⟩
  exact {
    inv := launch_inv blk hd
    hdef := by simp [hd]
    digest := by simp [pendingDigest_of_some (launch_inflight _ blk), ht.digest, h.digest]
    result := by simp
    cmdErr := by simp [ht.cmdErr, h.cmdErr] }

/-- Offering the blocks in order extends the chain by all of them (R107, R175). -/
theorem Chains.runActs_compresses {e : Bool} {H : Vector Word 8} {s : State} (h : Chains e H s) (blocks : List Block)
    (acts : List HostAct) (rs : List (List Char × DigestBits)) :
    ∃ t, Chains e (compressAll H blocks) t ∧
      runActs (blocks.map (fun blk => .offer (encode (.compress blk))) ++ acts) ⟨s, rs⟩ = runActs acts ⟨t, rs⟩ := by
  induction blocks generalizing H s with
  | nil => exact ⟨s, h, rfl⟩
  | cons blk blocks ih =>
    obtain ⟨t, ht, hrun⟩ := h.runAct_compress blk rs
    obtain ⟨u, hu, hrest⟩ := ih ht
    exact ⟨u, hu, (runActs_cons_of_next hrun _).trans hrest⟩

/-- Waiting and reading leave the chain value in DigestState and read it (R79). -/
theorem Chains.runActs_wait_read {e : Bool} {H : Vector Word 8} {s : State} (h : Chains e H s) (name : List Char)
    (rs : List (List Char × DigestBits)) :
    ∃ t, DrainsTo s t ∧
      runActs [.wait, .read name] ⟨s, rs⟩ = .next ⟨t, rs ++ [(name, packDigest H)]⟩ := by
  obtain ⟨t, ht, hwait⟩ := h.inv.runAct_wait rs
  have hread := runAct_read_of_hdef name (ht.hdef.trans h.hdef) rs
  rw [ht.digest, h.digest] at hread
  exact ⟨t, ht, (runActs_cons_of_next hwait _).trans (runActs_cons_of_next hread [])⟩

/-- Settles O28: INIT begins the chain, the blocks extend it in order, and waiting and reading show it. -/
theorem messageIsChainFromIv : Obligations.MessageIsChainFromIv := by
  intro s blocks rs h
  obtain ⟨a, ha, hinit⟩ := h.runAct_init rs
  obtain ⟨b, hb, hblocks⟩ := ha.runActs_compresses blocks [.wait, .read []] rs
  obtain ⟨t, ht, hread⟩ := hb.runActs_wait_read [] rs
  have hH : t.H = compressAll ivRom blocks := ht.digest.trans hb.digest
  refine ⟨_, (runActs_cons_of_next hinit _).trans (hblocks.trans hread), hH, rfl, ht.idle, ht.done.trans hb.result, ?_,
    ht.cmdErr.trans hb.cmdErr, ht.inv⟩
  rw [digestOut_of_hdef (ht.hdef.trans hb.hdef), hH]

end Sys2Proof.Machine
end

section
/-! SUPPORT. The four sigma functions bit by bit (42_schedule R120, R121; 43_rounds R142, R143). -/

namespace Sys2Proof.Machine

/-- Each bit of a shift right is the bit `n` places up, a zero above the word (R11). -/
theorem shr_getLsbD (x : Word) (n i : Nat) : (shr x n).getLsbD i = x.getLsbD (i + n) := by
  rw [shr, BitVec.getLsbD_ushiftRight, Nat.add_comm]

theorem threeRotations_getLsbD (x : Word) {p q r i : Nat} (hp : p < 32) (hq : q < 32) (hr : r < 32) (hi : i < 32) :
    (threeRotations x p q r).getLsbD i =
      (x.getLsbD ((i + p) % 32) ^^ x.getLsbD ((i + q) % 32) ^^ x.getLsbD ((i + r) % 32)) := by
  simp only [threeRotations, BitVec.getLsbD_xor, rotr_getLsbD x hp hi, rotr_getLsbD x hq hi, rotr_getLsbD x hr hi]

theorem rotationsAndShift_getLsbD (x : Word) {p q i : Nat} (n : Nat) (hp : p < 32) (hq : q < 32) (hi : i < 32) :
    (rotationsAndShift x p q n).getLsbD i =
      (x.getLsbD ((i + p) % 32) ^^ x.getLsbD ((i + q) % 32) ^^ x.getLsbD (i + n)) := by
  simp only [rotationsAndShift, BitVec.getLsbD_xor, rotr_getLsbD x hp hi, rotr_getLsbD x hq hi, shr_getLsbD]

/-- Settles O40: the bits of the two shapes, at the amounts of each sigma. -/
theorem sigmaBits : Obligations.SigmaBits := by
  intro x i hi
  refine ⟨?_, ?_, ?_, ?_⟩
  · exact rotationsAndShift_getLsbD x 3 (by decide) (by decide) hi
  · exact rotationsAndShift_getLsbD x 10 (by decide) (by decide) hi
  · exact threeRotations_getLsbD x (by decide) (by decide) (by decide) hi
  · exact threeRotations_getLsbD x (by decide) (by decide) (by decide) hi

end Sys2Proof.Machine
end

section
/-! SUPPORT. The four sigma functions are bijections (42_schedule R120, R121; 43_rounds R142, R143). Each is linear over
xor, and so is every xor of its own powers; one such xor is its inverse, which need only be checked on the 32 words with
one bit set. -/

namespace Sys2Proof.Machine

/-! ### Functions on words that are linear over xor -/

/-- The linearity that R120, R121, R142 and R143 name among their corner cases. -/
def XorLinear (f : Word → Word) : Prop := ∀ x y, f (x ^^^ y) = f x ^^^ f y

theorem XorLinear.map_zero {f : Word → Word} (hf : XorLinear f) : f 0 = 0 := by
  simpa using hf 0 0

theorem XorLinear.id : XorLinear id := fun _ _ => rfl

theorem XorLinear.comp {f g : Word → Word} (hf : XorLinear f) (hg : XorLinear g) : XorLinear (f ∘ g) := fun x y => by
  simp only [Function.comp_apply, hg x y, hf (g x) (g y)]

theorem XorLinear.xor {f g : Word → Word} (hf : XorLinear f) (hg : XorLinear g) :
    XorLinear fun x => f x ^^^ g x := fun x y => by
  simp only [hf x y, hg x y]
  ac_rfl

theorem XorLinear.iterate {f : Word → Word} (hf : XorLinear f) (k : Nat) : XorLinear f^[k] := by
  induction k with
  | zero => exact .id
  | succ k ih => exact ih.comp hf

/-- Two linear functions that agree on the single bits below `n` agree on the words with no other bit. -/
theorem XorLinear.eq_on_low_bits {f g : Word → Word} (hf : XorLinear f) (hg : XorLinear g)
    (h : ∀ i < 32, f (BitVec.twoPow 32 i) = g (BitVec.twoPow 32 i)) (n : Nat) (hn : n ≤ 32) (x : Word)
    (hx : ∀ i, n ≤ i → x.getLsbD i = false) : f x = g x := by
  induction n generalizing x with
  | zero =>
    have hzero : x = 0 := BitVec.eq_of_getLsbD_eq fun i _ => by simp [hx i (Nat.zero_le i)]
    rw [hzero, hf.map_zero, hg.map_zero]
  | succ n ih =>
    cases hbit : x.getLsbD n with
    | false =>
      refine ih (by omega) x fun i hi => ?_
      rcases hi.eq_or_lt with rfl | hlt
      · exact hbit
      · exact hx i hlt
    | true =>
      have hrest : f (x ^^^ BitVec.twoPow 32 n) = g (x ^^^ BitVec.twoPow 32 n) := by
        refine ih (by omega) _ fun i hi => ?_
        rw [BitVec.getLsbD_xor, BitVec.getLsbD_twoPow]
        rcases hi.eq_or_lt with rfl | hlt
        · simp [hbit, show n < 32 by omega]
        · simp [hx i hlt, hlt.ne]
      have hsplit : x = (x ^^^ BitVec.twoPow 32 n) ^^^ BitVec.twoPow 32 n := by
        rw [BitVec.xor_assoc, BitVec.xor_self, BitVec.xor_zero]
      rw [hsplit, hf, hg, hrest, h n (by omega)]

/-- A linear function is determined by its values on the single bits. -/
theorem XorLinear.eq_of_twoPow {f g : Word → Word} (hf : XorLinear f) (hg : XorLinear g)
    (h : ∀ i < 32, f (BitVec.twoPow 32 i) = g (BitVec.twoPow 32 i)) : f = g :=
  funext fun x => hf.eq_on_low_bits hg h 32 (Nat.le_refl 32) x fun i hi => BitVec.getLsbD_of_ge x i hi

/-! ### Xors of powers of one function -/

/-- The xor of the iterates `f^[k] x`, `k` in `ks`: a polynomial in `f` over the two-element field, by its exponents. -/
def xorOfPowers (f : Word → Word) : List Nat → Word → Word
  | [], _ => 0
  | k :: ks, x => f^[k] x ^^^ xorOfPowers f ks x

theorem XorLinear.of_powers {f : Word → Word} (hf : XorLinear f) (ks : List Nat) : XorLinear (xorOfPowers f ks) := by
  induction ks with
  | nil => exact fun _ _ => (BitVec.xor_zero).symm
  | cons k ks ih => exact (hf.iterate k).xor ih

/-- A linear function commutes with the xors of its powers. -/
theorem XorLinear.map_xorOfPowers {f : Word → Word} (hf : XorLinear f) (ks : List Nat) (x : Word) :
    f (xorOfPowers f ks x) = xorOfPowers f ks (f x) := by
  induction ks with
  | nil => exact hf.map_zero
  | cons k ks ih =>
    simp only [xorOfPowers]
    rw [hf, ih, ← Function.iterate_succ_apply' f k x, Function.iterate_succ_apply]

/-- A linear function is a bijection if some xor of its powers undoes it on the single bits. -/
theorem XorLinear.bijective_of_powers {f : Word → Word} (hf : XorLinear f) (ks : List Nat)
    (h : ∀ i < 32, f (xorOfPowers f ks (BitVec.twoPow 32 i)) = BitVec.twoPow 32 i) : Function.Bijective f := by
  have hright (x : Word) : f (xorOfPowers f ks x) = x :=
    congrFun ((hf.comp (hf.of_powers ks)).eq_of_twoPow .id h) x
  have hleft (x : Word) : xorOfPowers f ks (f x) = x := (hf.map_xorOfPowers ks x).symm.trans (hright x)
  exact ⟨Function.LeftInverse.injective hleft, Function.RightInverse.surjective hright⟩

/-! ### The sigma functions -/

theorem shr_xorLinear (n : Nat) : XorLinear (shr · n) := fun x y => by
  simp only [shr, BitVec.ushiftRight_xor_distrib]

theorem rotr_xorLinear {n : Nat} (hn : n < 32) : XorLinear (rotr · n) := fun x y => by
  refine BitVec.eq_of_getLsbD_eq fun i hi => ?_
  simp only [BitVec.getLsbD_xor, rotr_getLsbD _ hn hi]

theorem threeRotations_xorLinear {p q r : Nat} (hp : p < 32) (hq : q < 32) (hr : r < 32) :
    XorLinear (threeRotations · p q r) :=
  ((rotr_xorLinear hp).xor (rotr_xorLinear hq)).xor (rotr_xorLinear hr)

theorem rotationsAndShift_xorLinear {p q : Nat} (n : Nat) (hp : p < 32) (hq : q < 32) :
    XorLinear (rotationsAndShift · p q n) :=
  ((rotr_xorLinear hp).xor (rotr_xorLinear hq)).xor (shr_xorLinear n)

theorem smallSigma0_xorLinear : XorLinear smallSigma0 := rotationsAndShift_xorLinear 3 (by decide) (by decide)

theorem smallSigma1_xorLinear : XorLinear smallSigma1 := rotationsAndShift_xorLinear 10 (by decide) (by decide)

theorem bigSigma0_xorLinear : XorLinear bigSigma0 := threeRotations_xorLinear (by decide) (by decide) (by decide)

theorem bigSigma1_xorLinear : XorLinear bigSigma1 := threeRotations_xorLinear (by decide) (by decide) (by decide)

/-- Settles O41. The exponents of each inverse are those of the function's minimal polynomial over the two-element
field (`1 + X + X^2 + X^3 + X^8 + X^9 + X^10 + X^11` for `Σ1`) without its constant term, divided by `X`. -/
theorem sigmasAreBijections : Obligations.SigmasAreBijections := by
  refine ⟨?_, ?_, ?_, ?_⟩
  · exact smallSigma0_xorLinear.bijective_of_powers [1, 3, 9, 11, 13, 19, 31] (by decide +kernel)
  · exact smallSigma1_xorLinear.bijective_of_powers [3, 5, 9, 11, 19, 25, 31] (by decide +kernel)
  · exact bigSigma0_xorLinear.bijective_of_powers [31] (by decide +kernel)
  · exact bigSigma1_xorLinear.bijective_of_powers [0, 1, 2, 7, 8, 9, 10] (by decide +kernel)

end Sys2Proof.Machine
end

section
/-! SUPPORT. The message schedule in bytes and in numbers (42_schedule R122, R123). -/

namespace Sys2Proof.Machine

/-- R123's sum in numbers, reduced mod 2^32. -/
theorem nextWord_toNat (W : Vector Word 64) (t : Fin 64) :
    (nextWord W t).toNat =
      ((smallSigma1 W[t.val - 2]).toNat + W[t.val - 7].toNat + (smallSigma0 W[t.val - 15]).toNat +
        W[t.val - 16].toNat) % 2 ^ 32 := by
  simp only [nextWord, BitVec.toNat_add, Nat.mod_add_mod]

/-- Settles O43: the loaded words are the block's byte lanes, and every later word is `nextWord` of the finished
schedule. -/
theorem scheduleOfBlock : Obligations.ScheduleOfBlock := by
  refine fun blk => ⟨fun i h => ?_, fun t h h16 => ?_⟩
  · exact (schedule_block blk i h).trans (blockWord_eq_be32 blk ⟨i, h⟩)
  · exact (congrArg BitVec.toNat (schedule_next blk ⟨t, h⟩ h16)).trans (nextWord_toNat (schedule blk) ⟨t, h⟩)

end Sys2Proof.Machine
end

section
/-! SUPPORT. The round loop as a fold over the round numbers (43_rounds R141, R152, R154). -/

namespace Sys2Proof.Machine

/-- The round numbers below `n + 1` are those below `n`, then `n`. -/
theorem finRange_take_succ {m n : Nat} (h : n < m) :
    (List.finRange m).take (n + 1) = (List.finRange m).take n ++ [⟨n, h⟩] := by
  rw [List.take_succ_eq_append_getElem (by rwa [List.length_finRange]), List.getElem_finRange, Fin.cast_mk]

/-- By induction on the number of rounds: round `n` comes last, after the rounds below it. -/
theorem roundsTo_eq_foldl (r : Working) (W : Vector Word 64) (n : Nat) (hn : n ≤ 64) :
    roundsTo r W n = ((List.finRange 64).take n).foldl (fun q t => roundStep kRom[t.val] W[t.val] q) r := by
  induction n with
  | zero => rfl
  | succ n ih =>
    have hlt : n < 64 := hn
    rw [roundsTo_succ r W n hlt, ih hlt.le, finRange_take_succ hlt, List.foldl_append, List.foldl_cons, List.foldl_nil]

/-- Settles O45: the loop is the fold, and `Rounds` runs it from the loaded registers. -/
theorem roundsInOrder : Obligations.RoundsInOrder :=
  ⟨roundsTo_eq_foldl, fun _ _ => rfl⟩

end Sys2Proof.Machine
end

section
/-! SUPPORT. Ch and Maj bit by bit (43_rounds R144, R145). -/

namespace Sys2Proof.Machine

/-- Where `x` is 1 only the term with `y` is left, and where `x` is 0 only the term with `z` (R144). -/
theorem ch_getLsbD (x y z : Word) {i : Nat} (hi : i < 32) :
    (ch x y z).getLsbD i = (if x.getLsbD i then y.getLsbD i else z.getLsbD i) := by
  have hbits : (ch x y z).getLsbD i = (x.getLsbD i && y.getLsbD i ^^ !x.getLsbD i && z.getLsbD i) := by
    simp only [ch, BitVec.getLsbD_xor, BitVec.getLsbD_and, BitVec.getLsbD_not, hi, decide_true, Bool.true_and]
  cases hx : x.getLsbD i with
  | true => simp [hbits, hx]
  | false => simp [hbits, hx]

theorem maj_getLsbD (x y z : Word) (i : Nat) :
    (maj x y z).getLsbD i =
      (x.getLsbD i && y.getLsbD i ^^ x.getLsbD i && z.getLsbD i ^^ y.getLsbD i && z.getLsbD i) := by
  simp only [maj, BitVec.getLsbD_xor, BitVec.getLsbD_and]

/-- The xor of the three pairwise products of bits is their majority: one product is 1 where two bits are, and all
three where all are. -/
theorem xor_of_pairs_iff_two_le :
    ∀ a b c : Bool, (a && b ^^ a && c ^^ b && c) = true ↔ 2 ≤ a.toNat + b.toNat + c.toNat := by
  decide

/-- Settles O42: the bits of the two functions, those of Maj read as a count. -/
theorem chooseAndMajorityBits : Obligations.ChooseAndMajorityBits := by
  refine fun x y z i hi => ⟨ch_getLsbD x y z hi, ?_⟩
  rw [maj_getLsbD]
  exact xor_of_pairs_iff_two_le _ _ _

end Sys2Proof.Machine
end

section
/-! SUPPORT. One round in numbers (43_rounds R146, R147, R151). -/

namespace Sys2Proof.Machine

/-- Reducing after each addition gives the five-term sum reduced once (R146). -/
theorem tempT1_toNat (k w : Word) (r : Working) :
    (tempT1 k w r).toNat =
      (r.h.toNat + (bigSigma1 r.e).toNat + (ch r.e r.f r.g).toNat + k.toNat + w.toNat) % 2 ^ 32 := by
  simp only [tempT1, BitVec.toNat_add, Nat.mod_add_mod]

theorem tempT2_toNat (r : Working) :
    (tempT2 r).toNat = ((bigSigma0 r.a).toNat + (maj r.a r.b r.c).toNat) % 2 ^ 32 :=
  BitVec.toNat_add _ _

theorem roundStep_a_toNat (k w : Word) (r : Working) :
    (roundStep k w r).a.toNat = ((tempT1 k w r).toNat + (tempT2 r).toNat) % 2 ^ 32 :=
  BitVec.toNat_add _ _

theorem roundStep_e_toNat (k w : Word) (r : Working) :
    (roundStep k w r).e.toNat = (r.d.toNat + (tempT1 k w r).toNat) % 2 ^ 32 :=
  BitVec.toNat_add _ _

/-- Settles O44: the two temporaries and the two computed registers in numbers; the other six are shifted. -/
theorem roundStepArithmetic : Obligations.RoundStepArithmetic := fun k w r =>
  ⟨tempT1_toNat k w r, tempT2_toNat r, roundStep_a_toNat k w r, roundStep_e_toNat k w r, rfl, rfl, rfl, rfl, rfl, rfl⟩

end Sys2Proof.Machine
end

section
/-! SUPPORT. The fold-back word by word (44_fold R172, R173). -/

namespace Sys2Proof.Machine

/-- One case per word: the fold's tuple lists the eight sums in the order of the registers. -/
theorem fold_getElem (H : Vector Word 8) (r : Working) (i : Nat) (h : i < 8) :
    (fold H r)[i] = H[i] + (#v[r.a, r.b, r.c, r.d, r.e, r.f, r.g, r.h])[i] := by
  interval_cases i <;> rfl

/-- Settles O46: each word of the fold is one 32-bit sum, which drops its carry. -/
theorem foldWrapsPerWord : Obligations.FoldWrapsPerWord := fun H r i h => by
  rw [fold_getElem H r i h, BitVec.toNat_add]

end Sys2Proof.Machine
end

section
/-! SUPPORT. The HASH line of a script (30_encoding R79, 45_host_side R194, R197). -/

namespace Sys2Proof.Machine

theorem runScript_hash_of_accepted {mode : LenMode} {policy : OverrangePolicy} {m : List Byte}
    (h : hostAccepts mode policy m.length = true) (r : HostRun) :
    runScript mode policy [.hash m] r = andThen (runActs (hashActs (padBlocks mode m)) r) .next := by
  simp only [runScript, expandLine, if_pos h]

theorem runScript_hash_of_not_accepted {mode : LenMode} {policy : OverrangePolicy} {m : List Byte}
    (h : hostAccepts mode policy m.length = false) (r : HostRun) :
    runScript mode policy [.hash m] r = .refused .messageOutOfRange := by
  simp [runScript, expandLine, h]

/-- Settles O31: the line's acts read the chain over the blocks of `Pad(M)` from IV, which is what `digest(input)`
renders. -/
theorem hashLineGivesSoftwareDigest : Obligations.HashLineGivesSoftwareDigest := by
  refine fun mode policy m s rs hinv => ⟨fun h => ?_, fun h => runScript_hash_of_not_accepted h _⟩
  obtain ⟨r, hrun, -, hread, -⟩ := messageIsChainFromIv s (padBlocks mode m) rs hinv
  refine ⟨r, messageDigest mode m, ?_, hread, if_pos h⟩
  rw [runScript_hash_of_accepted h, hrun, andThen_of_next]

end Sys2Proof.Machine
end

section
/-! SUPPORT. The padded message, its blocks and its length field (45_host_side R191, R192, R193). -/

namespace Sys2Proof.Machine

/-! ### The shape of the padding -/

theorem zeroCount_lt (len : Nat) : zeroCount len < 64 := Nat.mod_lt _ (by decide)

/-- The zero bytes bring the length to 56 mod 64, which leaves room for the length field (R191). -/
theorem length_add_zeroCount_mod (len : Nat) : (len + 1 + zeroCount len) % 64 = 56 := by
  unfold zeroCount
  omega

/-- The message, the 0x80 byte, the zero bytes and the length field fill the blocks that R191 counts. -/
theorem length_add_zeroCount (len : Nat) : len + 1 + zeroCount len + 8 = 64 * blockCount len := by
  unfold zeroCount blockCount
  omega

@[simp] theorem be64_length (n : Nat) : (be64 n).length = 8 := by
  simp [be64]

@[simp] theorem lenField_length (mode : LenMode) (len : Nat) : (lenField mode len).length = 8 := by
  cases mode <;> exact be64_length _

theorem pad_eq (mode : LenMode) (m : List Byte) :
    pad mode m = m ++ [0x80#8] ++ List.replicate (zeroCount m.length) 0x00#8 ++ lenField mode m.length := by
  simp [pad]

theorem pad_length (mode : LenMode) (m : List Byte) : (pad mode m).length = 64 * blockCount m.length := by
  simp only [← length_add_zeroCount, pad_eq, List.length_append, List.length_singleton, List.length_replicate,
    lenField_length]

/-- Settles O47: the count of zero bytes makes the whole a number of blocks. -/
theorem paddingShape : Obligations.PaddingShape := by
  intro mode m
  have hlen := pad_length mode m
  have hfill := length_add_zeroCount m.length
  have hlt := zeroCount_lt m.length
  exact ⟨pad_eq mode m, length_add_zeroCount_mod m.length, hlt, lenField_length mode m.length, hlen, by omega,
    by omega⟩

/-! ### The blocks of the padded message -/

@[simp] theorem padBlocks_length (mode : LenMode) (m : List Byte) :
    (padBlocks mode m).length = blockCount m.length := by
  simp [padBlocks]

theorem padBlocks_getElem (mode : LenMode) (m : List Byte) (i : Nat) (hi : i < (padBlocks mode m).length) :
    (padBlocks mode m)[i] = blockOfBytes (((pad mode m).drop (64 * i)).take 64) := by
  simp [padBlocks]

/-- Settles O48: block `i` is made of 64 bytes of the padded message from `64 i` on, and its byte lanes hold them. -/
theorem paddedBlocksCarryBytes : Obligations.PaddedBlocksCarryBytes := by
  refine fun mode m => ⟨padBlocks_length mode m, fun i hi j => ?_⟩
  have hlen := pad_length mode m
  have hcount : i < blockCount m.length := by simpa using hi
  have hbytes : (((pad mode m).drop (64 * i)).take 64).length = 64 := by
    rw [List.length_take, List.length_drop]
    omega
  rw [padBlocks_getElem, blockByte_blockOfBytes _ hbytes, List.getElem_take, List.getElem_drop]
  exact List.getElem?_eq_getElem _

/-! ### The length field -/

/-- The `k` low bytes of a number, the most significant first, are the number modulo `256 ^ k` (R192). -/
theorem bytesToNat_lowBytes (k n : Nat) :
    bytesToNat ((List.range k).map fun i => BitVec.ofNat 8 (n / 256 ^ (k - 1 - i))) = n % 256 ^ k := by
  induction k generalizing n with
  | zero => simp [bytesToNat, Nat.mod_one]
  | succ k ih =>
    have hhigh : ((List.range k).map fun i => BitVec.ofNat 8 (n / 256 ^ (k + 1 - 1 - i))) =
        (List.range k).map fun i => BitVec.ofNat 8 (n / 256 / 256 ^ (k - 1 - i)) := by
      refine List.map_congr_left fun i hi => ?_
      have hexp : k + 1 - 1 - i = k - 1 - i + 1 := by
        have := List.mem_range.mp hi
        omega
      rw [hexp, Nat.pow_succ', Nat.div_div_eq_div_mul]
    have hsplit : n % 256 ^ (k + 1) = n % 256 + 256 * (n / 256 % 256 ^ k) := by
      rw [Nat.pow_succ', Nat.mod_mul]
    rw [List.range_succ, List.map_append, List.map_singleton, bytesToNat_concat, hhigh, ih, hsplit]
    simp [Nat.add_comm]

/-- `BE64` is big-endian, and exact below 2^64. -/
theorem bytesToNat_be64 {n : Nat} (h : n < 2 ^ 64) : bytesToNat (be64 n) = n :=
  (bytesToNat_lowBytes 8 n).trans (Nat.mod_eq_of_lt h)

/-- Settles O49: both fields are `BE64` of a number below 2^64, so they are equal exactly when those numbers are. -/
theorem lengthFieldModes : Obligations.LengthFieldModes := by
  intro len hlen
  have hfull : bytesToNat (lenField .full64 len) = 8 * len := bytesToNat_be64 hlen
  have htrunc : bytesToNat (lenField .trunc32 len) = 8 * len % 2 ^ 32 := bytesToNat_be64 (by omega)
  refine ⟨hfull, htrunc, fun heq => ?_, fun hlt => ?_⟩
  · rw [heq] at hfull
    omega
  · have hmod : 8 * len % 2 ^ 32 = 8 * len := Nat.mod_eq_of_lt (by omega)
    simp only [lenField, hmod]

end Sys2Proof.Machine
end

section
/-! SUPPORT. The hex rendering of a digest (45_host_side R196). -/

namespace Sys2Proof.Machine

theorem hexChar_mem : ∀ d : BitVec 4, hexChar d ∈ hexAlphabet := by
  decide

/-- The sixteen characters of the alphabet differ. -/
theorem hexChar_injective : ∀ d e : BitVec 4, hexChar d = hexChar e → d = e := by
  decide

theorem hexByte_digestByte (D : DigestBits) (k : Fin 32) :
    hexByte (digestByte D k) =
      [hexChar (D.extractLsb' (252 - 8 * k.val) 4), hexChar (D.extractLsb' (248 - 8 * k.val) 4)] := by
  have hhigh : 248 - 8 * k.val + 4 = 252 - 8 * k.val := by omega
  rw [hexByte, digestByte, extractLsb'_extractLsb' _ _ _ (by decide), extractLsb'_extractLsb' _ _ _ (by decide), hhigh,
    Nat.add_zero]

/-- In a concatenation of pairs, those of element `k` are at `2k` and `2k + 1`. -/
theorem getElem?_flatMap_pair {α β : Type} (f g : α → β) (l : List α) (k : Nat) :
    (l.flatMap fun a => [f a, g a])[2 * k]? = l[k]?.map f ∧
    (l.flatMap fun a => [f a, g a])[2 * k + 1]? = l[k]?.map g := by
  induction l generalizing k with
  | nil => simp
  | cons a l ih =>
    cases k with
    | zero => simp
    | succ k => simpa [Nat.mul_add] using ih k

theorem hexDigest_eq (D : DigestBits) :
    hexDigest D = (List.finRange 32).flatMap fun k =>
      [hexChar (D.extractLsb' (252 - 8 * k.val) 4), hexChar (D.extractLsb' (248 - 8 * k.val) 4)] := by
  simp only [hexDigest, hexByte_digestByte]

/-- The two characters of byte `k`, its high nibble first (R196). -/
theorem hexDigest_getElem? (D : DigestBits) (k : Fin 32) :
    (hexDigest D)[2 * k.val]? = some (hexChar (D.extractLsb' (252 - 8 * k.val) 4)) ∧
    (hexDigest D)[2 * k.val + 1]? = some (hexChar (D.extractLsb' (248 - 8 * k.val) 4)) := by
  rw [hexDigest_eq]
  simpa using getElem?_flatMap_pair _ _ (List.finRange 32) k.val

theorem hexDigest_length (D : DigestBits) : (hexDigest D).length = 64 := by
  simp [hexDigest_eq]

theorem mem_hexAlphabet_of_mem_hexDigest {D : DigestBits} {c : Char} (h : c ∈ hexDigest D) : c ∈ hexAlphabet := by
  rw [hexDigest_eq] at h
  obtain ⟨k, -, hc⟩ := List.mem_flatMap.mp h
  rcases List.mem_pair.mp hc with rfl | rfl
  · exact hexChar_mem _
  · exact hexChar_mem _

/-- A byte of the digest is its high nibble and its low nibble. -/
theorem digestByte_eq_nibbles (D : DigestBits) (k : Fin 32) :
    digestByte D k = D.extractLsb' (252 - 8 * k.val) 4 ++ D.extractLsb' (248 - 8 * k.val) 4 := by
  rw [digestByte, BitVec.extractLsb'_append_extractLsb'_eq_extractLsb' (by omega)]

/-- Digests with one rendering agree in every byte. -/
theorem digestByte_eq_of_hexDigest_eq {D E : DigestBits} (h : hexDigest D = hexDigest E) (k : Fin 32) :
    digestByte D k = digestByte E k := by
  obtain ⟨hhighD, hlowD⟩ := hexDigest_getElem? D k
  obtain ⟨hhighE, hlowE⟩ := hexDigest_getElem? E k
  rw [h] at hhighD hlowD
  have hhigh := hexChar_injective _ _ (Option.some.inj (hhighD.symm.trans hhighE))
  have hlow := hexChar_injective _ _ (Option.some.inj (hlowD.symm.trans hlowE))
  rw [digestByte_eq_nibbles, digestByte_eq_nibbles, hhigh, hlow]

/-- A digest is determined by its bytes (R52). -/
theorem eq_of_digestByte_eq {D E : DigestBits} (h : ∀ k, digestByte D k = digestByte E k) : D = E := by
  refine BitVec.eq_of_getLsbD_eq fun i hi => ?_
  have hpos : 248 - 8 * (31 - i / 8) + i % 8 = i := by omega
  have hlane (X : DigestBits) : (digestByte X ⟨31 - i / 8, by omega⟩).getLsbD (i % 8) = X.getLsbD i := by
    simp [digestByte, hpos, Nat.mod_lt]
  rw [← hlane D, ← hlane E, h]

/-- Settles O50: each byte is rendered by its two characters, and is known from them since the sixteen of the alphabet
differ. -/
theorem hexRendering : Obligations.HexRendering :=
  ⟨fun D => ⟨hexDigest_length D, fun _ => mem_hexAlphabet_of_mem_hexDigest, hexDigest_getElem? D⟩,
    fun _ _ h => eq_of_digestByte_eq (digestByte_eq_of_hexDigest_eq h)⟩

end Sys2Proof.Machine
end

section
/-! SUPPORT. What stops the machine: the faults and refusals of a command, of an edge in flight and of any edge
(41_commands R100, R103, R104; 60_exceptions R220, R221, R223). -/

namespace Sys2Proof.Machine

/-! ### The acceptance of a command -/

/-- A command faults exactly where it is a COMPRESS and DigestState is not defined (R103). -/
theorem exec_eq_fault_iff {i : Instr} {s : State} {r : Fault} :
    exec i s = .fault r ↔ r = .uninitialisedDigest ∧ opcode i = 0b10#2 ∧ s.hdef = false := by
  cases i with
  | nop => simp [exec_nop, opcode]
  | init => simp [exec_init, opcode]
  | compress blk =>
    cases hd : s.hdef with
    | true => simp [exec_compress_of_hdef blk hd]
    | false => simp [exec_compress_of_not_hdef blk hd, opcode]
  | reserved => simp [exec_reserved, opcode]

/-- Every command has its meaning. -/
theorem exec_ne_refused (i : Instr) (s : State) (r : Refusal) : exec i s ≠ .refused r := by
  cases i with
  | nop => simp [exec_nop]
  | init => simp [exec_init]
  | compress blk =>
    cases hd : s.hdef with
    | true => simp [exec_compress_of_hdef blk hd]
    | false => simp [exec_compress_of_not_hdef blk hd]
  | reserved => simp [exec_reserved]

/-- The condition of a command, in the two rows of R221's table that an acceptance can raise. -/
theorem acceptCondition_eq_some_iff {i : Instr} {s : State} {c : Condition} :
    acceptCondition i s = some c ↔ c = .reservedCommand ∧ opcode i = 0b11#2 ∨
      c = .uninitialisedDigest ∧ opcode i = 0b10#2 ∧ s.hdef = false := by
  cases i with
  | nop => simp [acceptCondition, opcode]
  | init => simp [acceptCondition, opcode]
  | compress blk =>
    cases hd : s.hdef with
    | true => simp [acceptCondition, opcode, hd]
    | false => simpa [acceptCondition, opcode, hd] using eq_comm
  | reserved => simpa [acceptCondition, opcode] using eq_comm

/-- The codes of the table differ (R221). -/
theorem Condition.code_injective : Function.Injective Condition.code := by
  intro c d
  cases c <;> cases d <;> simp [Condition.code]

/-- A condition is known from its code. -/
theorem map_code_eq_some_iff {x : Option Condition} (c : Condition) :
    x.map Condition.code = some c.code ↔ x = some c := by
  simp [Condition.code_injective.eq_iff]

/-- Settles O6: the two conditions of an acceptance have their commands, and the second is where `exec` faults. -/
theorem oneConditionPerCommand : Obligations.OneConditionPerCommand := by
  intro i s
  have hcode1 : (acceptCondition i s).map Condition.code = some 1 ↔ opcode i = 0b11#2 :=
    (map_code_eq_some_iff .reservedCommand).trans (by simp [acceptCondition_eq_some_iff])
  have hcode2 : (acceptCondition i s).map Condition.code = some 2 ↔ opcode i = 0b10#2 ∧ s.hdef = false :=
    (map_code_eq_some_iff .uninitialisedDigest).trans (by simp [acceptCondition_eq_some_iff])
  have hcode3 : (readCondition s).map Condition.code = some 3 ↔ s.hdef = false :=
    (map_code_eq_some_iff .unspecifiedDigestRead).trans (by simp [readCondition])
  exact ⟨hcode1, hcode2, by simp [acceptCondition_eq_some_iff], hcode3,
    by rw [hcode2, exec_eq_fault_iff, eq_self, true_and], exec_ne_refused i s⟩

/-! ### The edge -/

/-- With a COMPRESS in flight, `Progress()` answers a next state (R104). -/
theorem progress_next_of_inflight {s : State} {f : InFlight} (hf : s.inflight = some f) :
    ∃ s', progress s = .next s' := by
  by_cases hn : 1 < f.remaining
  · exact ⟨_, progress_before_last hf hn⟩
  · exact ⟨_, progress_last hf (Nat.not_lt.mp hn)⟩

/-- Busy means that a COMPRESS is in flight (R38), so its edge answers a next state. -/
theorem State.Inv.progress_next {s : State} (h : s.Inv) (hb : s.busy = true) : ∃ s', progress s = .next s' := by
  obtain ⟨f, hf⟩ := Option.isSome_iff_exists.mp (h.busy_iff_inflight.symm.trans hb)
  exact progress_next_of_inflight hf

/-- Under the invariant an edge answers a next state, except that an accepted command may do otherwise (R100). -/
theorem State.Inv.edge_next_or_accepts {s : State} (h : s.Inv) (p : PortSample) :
    (∃ s', edge p s = .next s') ∨ (p.rst = false ∧ s.busy = false ∧ p.cmdValid = true) := by
  cases hr : p.rst with
  | true => exact .inl ⟨_, edge_of_reset s hr⟩
  | false =>
    cases hb : s.busy with
    | true =>
      rw [edge_of_busy hr hb]
      exact .inl (h.progress_next hb)
    | false =>
      cases hv : p.cmdValid with
      | true => exact .inr ⟨rfl, rfl, rfl⟩
      | false => exact .inl ⟨s, edge_of_no_offer hr hb hv⟩

/-- Under the invariant no edge refuses. -/
theorem State.Inv.edge_ne_refused {s : State} (h : s.Inv) (p : PortSample) (r : Refusal) : edge p s ≠ .refused r := by
  obtain ⟨s', he⟩ | ⟨hr, hb, hv⟩ := h.edge_next_or_accepts p
  · simp [he]
  · rw [edge_of_offer hr hb hv]
    exact exec_ne_refused _ s r

/-- Under the invariant an edge faults exactly where it accepts a COMPRESS and DigestState is not defined (R103,
R221). -/
theorem State.Inv.edge_eq_fault_iff {s : State} (h : s.Inv) {p : PortSample} {r : Fault} :
    edge p s = .fault r ↔ r = .uninitialisedDigest ∧ p.rst = false ∧ s.busy = false ∧ p.cmdValid = true ∧
      p.cmd = 0b10#2 ∧ s.hdef = false := by
  constructor
  · intro he
    obtain ⟨s', hnext⟩ | ⟨hr, hb, hv⟩ := h.edge_next_or_accepts p
    · simp [hnext] at he
    · rw [edge_of_offer hr hb hv, exec_eq_fault_iff, opcode_decode] at he
      obtain ⟨hfault, hc, hd⟩ := he
      exact ⟨hfault, hr, hb, hv, hc, hd⟩
  · rintro ⟨hfault, hr, hb, hv, hc, hd⟩
    rw [edge_of_offer hr hb hv, exec_eq_fault_iff, opcode_decode]
    exact ⟨hfault, hc, hd⟩

/-- Settles O22: a step is an edge out of a state that meets the invariant too. -/
theorem onlyUninitialisedCompressFaults : Obligations.OnlyUninitialisedCompressFaults := by
  intro s h
  have hdrop : (dropSample s).Inv := h.inv_dropSample
  exact ⟨hdrop.edge_ne_refused (nextSample s), fun _ => hdrop.edge_eq_fault_iff⟩

end Sys2Proof.Machine
end

section
/-! SUPPORT. The reset edge: what it leaves at transaction level, that this meets the invariant, and a message hashed
right after it (70_reset_and_hazards R240, R241, R244). -/

namespace Sys2Proof.Machine

/-- At transaction level a reset edge leaves one and the same state, whatever was there before (R37, R240). -/
theorem txView_resetEdge (s : State) : txView (resetEdge s) = ⟨none, false, false, false, none⟩ := by
  simp [txView]

/-- A reset edge leaves a state that meets the invariant, whatever was there before (R240, R38). -/
theorem resetEdge_inv (s : State) : (resetEdge s).Inv := .of_idle (by simp) (by simp) (by simp)

theorem runAct_reset (s : State) (rs : List (List Char × DigestBits)) :
    runAct .reset ⟨s, rs⟩ = .next ⟨resetEdge s, rs⟩ := by
  simp [runAct, edge_of_reset s (p := resetSample) rfl]

/-- Settles O29: the reset edge brings any state to one from which a message reads its chain. -/
theorem bootSequenceHashes : Obligations.BootSequenceHashes := by
  intro s blocks rs
  obtain ⟨r, hrun, -, hread, hb, hdone, -, hcmdErr, -⟩ :=
    messageIsChainFromIv (resetEdge s) blocks rs (resetEdge_inv s)
  exact ⟨r, (runActs_cons_of_next (runAct_reset s rs) _).trans hrun, hread, hb, hdone,
    hcmdErr.trans (resetEdge_cmdErr s)⟩

/-- Settles O12: the edge is `Reset()`, and so is the second one. -/
theorem resetEdgeClears : Obligations.ResetEdgeClears := by
  intro s p hr
  refine ⟨_, edge_of_reset s hr, by simp, by simp, by simp, by simp, by simp, by simp, by simp [cmdReady],
    ⟨_, edge_of_reset _ hr, ?_⟩, fun blk => exec_compress_of_not_hdef blk (resetEdge_hdef s), resetEdge_inv s⟩
  rw [txView_resetEdge, txView_resetEdge]

/-- Settles O26: reset has the first priority, so `Progress()` does not run. -/
theorem resetAbandonsCompress : Obligations.ResetAbandonsCompress := fun s _ _ hr =>
  ⟨_, edge_of_reset s hr, resetEdge_inflight s, resetEdge_busy s, resetEdge_done s, resetEdge_hdef s⟩

end Sys2Proof.Machine
end

section
/-! SUPPORT. The offer after an edge: one held through the end of a COMPRESS, and a COMPRESS at the very next edge
(70_reset_and_hazards R245, R249). -/

namespace Sys2Proof.Machine

/-- What holding an offer made while busy asks of the next sample (R245). -/
theorem offerHeld_iff_of_busy {s : State} {p q : PortSample} (hb : s.busy = true) (hv : p.cmdValid = true) :
    offerHeld s p q = true ↔ q.cmdValid = true ∧ q.cmd = p.cmd ∧ q.blockIn = p.blockIn := by
  simp [offerHeld, cmdReady, hb, hv, and_assoc]

/-- Settles O10: the held sample carries the same command, and with `busy = 0` its edge accepts it. -/
theorem heldOfferIsTaken : Obligations.HeldOfferIsTaken := by
  intro s s' p q hb _ hv _ hidle hheld hq
  obtain ⟨hqv, hcmd, hblk⟩ := (offerHeld_iff_of_busy hb hv).mp hheld
  rw [edge_of_offer hq hidle hqv, hcmd, hblk]

/-- With nothing in flight and DigestState defined, a COMPRESS offered is accepted at that edge (R100, R103). -/
theorem edge_offer_compress_busy (blk : Block) {s : State} (hb : s.busy = false) (hd : s.hdef = true) :
    ∃ u, edge (offerSample (encode (.compress blk))) s = .next u ∧ u.busy = true :=
  ⟨_, (edge_offer_encode _ hb).trans (exec_compress_of_hdef blk hd), launch_busy _ blk⟩

/-- Settles O27: INIT and a completion each leave `busy = 0` and DigestState defined. -/
theorem noWaitStates : Obligations.NoWaitStates := by
  refine ⟨fun s blk hb => ?_, fun s p f blk h hp hf hlast => ?_⟩
  · obtain ⟨u, hu, hubusy⟩ := edge_offer_compress_busy blk (s := setDone (loadIv s)) (by simpa using hb) (by simp)
    refine ⟨_, u, (edge_offer_encode .init hb).trans (exec_init s), ?_, by simp, hu, hubusy⟩
    rw [digestOut_of_hdef (by simp), setDone_H, loadIv_H]
  · obtain ⟨t, ht, -, -, hidle, hdone, -, -, hhdef, -⟩ := completionWritesCompress s p f h hp hf hlast
    have hd : t.hdef = true := hhdef.trans (h.busy_defined (h.busy_of_inflight hf))
    obtain ⟨u, hu, hubusy⟩ := edge_offer_compress_busy blk hidle hd
    exact ⟨t, u, ht, hdone, hu, hubusy⟩

end Sys2Proof.Machine
end
